-- ==== Sys2Proof/Word.lean ====
section
/-! DEFINITION. The word types of the block: the 32-bit register and stream word, the byte of the
save buffer and the RGB888 color (00_scope.md R8, R10). The pixel value stands in Config.lean, for its
width is a named constant. -/

namespace Sys2Proof

/-- A register, a command or a stream word: 32 bits (10_state.md R22, R39). -/
abbrev Word := BitVec 32

/-- A byte of the save buffer: `u8` (00_scope.md R8). -/
abbrev Byte := BitVec 8

/-- An RGB888 color: a triple of bytes (00_scope.md R10). -/
structure Rgb where
  r : Byte
  g : Byte
  b : Byte
  deriving DecidableEq, Repr, Inhabited

end Sys2Proof
end

