-- ==== Sys2Proof/Config.lean ====
section
/-! DEFINITION. The named constants of 00_scope.md R6, the pixel value whose width is one of them, and
the spec's three OPEN parameters, which are opaque: no proof can see a value of theirs (00_scope.md R6;
92_eei_decisions.md D2, D7, D17). -/

namespace Sys2Proof.Config

/-- Required save-buffer length in bytes. -/
abbrev saveSize : Nat := 131072
/-- Photo slots. -/
abbrev numSlots : Nat := 30
/-- Offset of slot 0's active-flag byte. -/
abbrev flagBase : Nat := 0x11B2
/-- The flag value that means deleted. -/
abbrev flagDeleted : Byte := 0xFF#8
/-- Offset of slot 0's image region. -/
abbrev imgBase : Nat := 0x2000
/-- Bytes per slot image region. -/
abbrev slotStride : Nat := 0x1000
/-- Pixel columns per image. -/
abbrev imgW : Nat := 128
/-- Pixel rows per image. -/
abbrev imgH : Nat := 112
/-- Tile width and height in pixels. -/
abbrev tileDim : Nat := 8
/-- Tile columns. -/
abbrev tilesX : Nat := 16
/-- Tile rows. -/
abbrev tilesY : Nat := 14
/-- Bytes per tile. -/
abbrev tileBytes : Nat := 16
/-- Bits per pixel value. -/
abbrev pixelBits : Nat := 2
/-- Palette entries. -/
abbrev palEntries : Nat := 4
/-- Built-in presets. -/
abbrev numPresets : Nat := 15
/-- The default preset, BlackAndWhite (41_palette_mapper.md R135). -/
abbrev defaultPreset : Fin numPresets := 0
/-- The register window in bytes (10_state.md R22). -/
abbrev regWindow : Nat := 0x1000

/-- OPEN parameter: the 60 preset colors. The spec gives none of them (91_not_in_source.md N1).
FREE VALUE, log 2: a claim about a color of `State.reset` holds for every value of it. -/
opaque presetRom : Fin numPresets → Fin palEntries → Rgb

/-- OPEN parameter: the host address of register offset 0 (D2). FREE VALUE, log 14. -/
opaque regBase : Nat

/-- OPEN parameter: the host address of save-buffer offset 0 (D7). FREE VALUE, log 14. -/
opaque saveBase : Nat

end Sys2Proof.Config

namespace Sys2Proof

/-- A pixel value: "a 2-bit integer (0–3) indexing into a palette" (00_scope.md R12). -/
abbrev Pixel := BitVec Config.pixelBits

end Sys2Proof
end

