-- ==== Sys2Proof/Syntax.lean ====
section
/-! DEFINITION. The commands of the block, one constructor per row of spec/opcode_table.json
(30_encoding.md R81), the reasons a word is no command (R85), and a row of the opcode map (R84). -/

namespace Sys2Proof

/-- The six commands with their operand fields at the widths of 30_encoding.md R81. -/
inductive Instr where
  /-- PRESET: PID = w[11:8] (41_palette_mapper.md R136). -/
  | preset (pid : BitVec 4)
  /-- DECODE_SLOT: SLOT = w[12:8] (42_tile_decoder.md R160). -/
  | decodeSlot (slot : BitVec 5)
  /-- DECODE_SAVE: INC = w[8] (43_save_decoder.md R180). -/
  | decodeSave (inc : Bool)
  /-- LOOKUP: V = w[9:8] (41_palette_mapper.md R138). -/
  | lookup (v : Pixel)
  /-- CHECK_ACTIVE: SLOT = w[12:8] (42_tile_decoder.md R162). -/
  | checkActive (slot : BitVec 5)
  /-- UNPACK: LO = w[15:8], HI = w[23:16] (42_tile_decoder.md R164). -/
  | unpack (lo hi : Byte)
  deriving DecidableEq, Repr

/-- Why a word is `illegal` (30_encoding.md R83, R85). The block reports none of these names: every
illegal word raises the one error IllegalCommand. Where several apply the decoder names the first in
the order opcode, reserved bits, operand range (log 22). -/
inductive DecodeError where
  /-- OP is 0x0 or 0x7 to 0xF. -/
  | reservedOpcode
  /-- A bit that no field of the opcode names is 1. -/
  | reservedBits
  /-- PID is 15. -/
  | reservedPreset
  /-- SLOT is 30 or 31. -/
  | reservedSlot
  deriving DecidableEq, Repr

/-- One row of the opcode map (30_encoding.md R84). -/
structure OpcodeRow where
  pattern : Word
  mask : Word
  deriving DecidableEq, Repr

/-- `w & mask == match` (30_encoding.md R84). -/
def OpcodeRow.selects (row : OpcodeRow) (w : Word) : Bool := w &&& row.mask == row.pattern

end Sys2Proof
end

