-- ==== Sys2Proof/WellFormed.lean ====
section
/-! DEFINITION. The operand ranges of 30_encoding.md R81: PID at most 14, SLOT at most 29; every
other operand field is legal at every value. -/

namespace Sys2Proof

/-- PID 0..14 (30_encoding.md R81). -/
abbrev presetLegal (pid : BitVec 4) : Prop := pid.toNat < Config.numPresets

/-- SLOT 0..29 (30_encoding.md R81). -/
abbrev slotLegal (slot : BitVec 5) : Prop := slot.toNat < Config.numSlots

/-- The instruction's operands are in the ranges of 30_encoding.md R81. -/
def Instr.wellFormed : Instr → Bool
  | .preset pid => decide (presetLegal pid)
  | .decodeSlot slot => decide (slotLegal slot)
  | .decodeSave _ => true
  | .lookup _ => true
  | .checkActive slot => decide (slotLegal slot)
  | .unpack _ _ => true

end Sys2Proof
end

