-- ==== Sys2Proof/Decode.lean ====
section
/-! DEFINITION. The decoder of 30_encoding.md R83, total on all 2^32 words and rejecting by name;
the encoder of R81 and R87; the opcode map of R84 as a table. -/

namespace Sys2Proof

/-- OP = w[3:0] (30_encoding.md R80). -/
def opField (w : Word) : BitVec 4 := w.extractLsb' 0 4
/-- PID = w[11:8] (30_encoding.md R82). -/
def pidField (w : Word) : BitVec 4 := w.extractLsb' 8 4
/-- SLOT = w[12:8] (30_encoding.md R82). -/
def slotField (w : Word) : BitVec 5 := w.extractLsb' 8 5
/-- INC = w[8] (30_encoding.md R82). -/
def incField (w : Word) : Bool := w.getLsbD 8
/-- V = w[9:8] (30_encoding.md R82). -/
def valueField (w : Word) : Pixel := w.extractLsb' 8 Config.pixelBits
/-- LO = w[15:8] (30_encoding.md R82). -/
def loField (w : Word) : Byte := w.extractLsb' 8 8
/-- HI = w[23:16] (30_encoding.md R82). -/
def hiField (w : Word) : Byte := w.extractLsb' 16 8

/-- A word whose bits under `reserved` are 0 gives the command, any other is rejected. -/
def withReserved (w reserved : Word) (i : Except DecodeError Instr) : Except DecodeError Instr :=
  if w &&& reserved = 0#32 then i else .error .reservedBits

/-- A command with a SLOT operand, rejected for SLOT 30 and 31 (30_encoding.md R83). -/
def withSlot (w : Word) (i : BitVec 5 → Instr) : Except DecodeError Instr :=
  if slotLegal (slotField w) then .ok (i (slotField w)) else .error .reservedSlot

/-- PRESET, rejected for PID 15 (30_encoding.md R83). -/
def withPreset (w : Word) : Except DecodeError Instr :=
  if presetLegal (pidField w) then .ok (.preset (pidField w)) else .error .reservedPreset

/-- `decode(w)` of 30_encoding.md R83. -/
def decode (w : Word) : Except DecodeError Instr :=
  if opField w = 0x1#4 then withReserved w 0xFFFFF0F0#32 (withPreset w)
  else if opField w = 0x2#4 then withReserved w 0xFFFFE0F0#32 (withSlot w .decodeSlot)
  else if opField w = 0x3#4 then withReserved w 0xFFFFFEF0#32 (.ok (.decodeSave (incField w)))
  else if opField w = 0x4#4 then withReserved w 0xFFFFFCF0#32 (.ok (.lookup (valueField w)))
  else if opField w = 0x5#4 then withReserved w 0xFFFFE0F0#32 (withSlot w .checkActive)
  else if opField w = 0x6#4 then withReserved w 0xFF0000F0#32 (.ok (.unpack (loField w) (hiField w)))
  else .error .reservedOpcode

/-- The command word of an instruction, from the bit patterns of 30_encoding.md R81, most
significant field first. -/
def encode : Instr → Word
  | .preset pid => 0#20 ++ pid ++ 0x01#8
  | .decodeSlot slot => 0#19 ++ slot ++ 0x02#8
  | .decodeSave inc => 0#23 ++ BitVec.ofBool inc ++ 0x03#8
  | .lookup v => 0#22 ++ v ++ 0x04#8
  | .checkActive slot => 0#19 ++ slot ++ 0x05#8
  | .unpack lo hi => 0#8 ++ hi ++ lo ++ 0x06#8

/-- The opcode number of an instruction's row (30_encoding.md R84). -/
def Instr.opcode : Instr → BitVec 4
  | .preset _ => 0x1#4
  | .decodeSlot _ => 0x2#4
  | .decodeSave _ => 0x3#4
  | .lookup _ => 0x4#4
  | .checkActive _ => 0x5#4
  | .unpack _ _ => 0x6#4

/-- The row of the opcode map that an instruction belongs to (30_encoding.md R84). -/
def Instr.row : Instr → OpcodeRow
  | .preset _ => ⟨0x00000001#32, 0xFFFFF0FF#32⟩
  | .decodeSlot _ => ⟨0x00000002#32, 0xFFFFE0FF#32⟩
  | .decodeSave _ => ⟨0x00000003#32, 0xFFFFFEFF#32⟩
  | .lookup _ => ⟨0x00000004#32, 0xFFFFFCFF#32⟩
  | .checkActive _ => ⟨0x00000005#32, 0xFFFFE0FF#32⟩
  | .unpack _ _ => ⟨0x00000006#32, 0xFF0000FF#32⟩

/-- The opcode map of 30_encoding.md R84, in its order. -/
def opcodeMap : List OpcodeRow :=
  [Instr.preset 0, .decodeSlot 0, .decodeSave false, .lookup 0, .checkActive 0, .unpack 0 0].map Instr.row

/-- The instruction the decoder reads from a command whose bits are `w`: bits at and above `nbits`
are 0, and a number of more than 32 bits is no command, since "every command is exactly 32 bits
long" (30_encoding.md R80). -/
def decodeTableWord (nbits w : Nat) : Option Instr :=
  if w % 2 ^ nbits < 2 ^ 32 then
    match decode (BitVec.ofNat 32 (w % 2 ^ nbits)) with
    | .ok i => some i
    | .error _ => none
  else none

end Sys2Proof
end

