-- ==== Sys2Proof/Machine/State.lean ====
section
/-! DEFINITION. The state of the block and of what the host holds beside it (10_state.md R20 to R40),
as plain data; the reasons a step stops; and the state after reset (70_reset_and_hazards.md R230). -/

namespace Sys2Proof.Machine
open Sys2Proof

/-- The entry status `st` of a palette entry (10_state.md R34). The reserved value 3 is never stored
(R35), so it has no constructor. -/
inductive EntryStatus where
  /-- 0: the color is usable. -/
  | valid
  /-- 1: the entry's expression matched no grammar. -/
  | badCode
  /-- 2: the expression parsed, but a component lies outside [0,255]. -/
  | badRange
  deriving DecidableEq, Repr, Inhabited

/-- One palette entry: a color and its status (10_state.md R33). -/
structure PalEntry where
  color : Rgb
  st : EntryStatus
  deriving DecidableEq, Repr, Inhabited

/-- The 4-entry table of the palette color mapper (10_state.md R33). -/
abbrev Palette := Vector PalEntry Config.palEntries

/-- The preset ROM: 15 presets of 4 colors (10_state.md R36). -/
abbrev PresetRom := Vector (Vector Rgb Config.palEntries) Config.numPresets

/-- The fields of STATUS (10_state.md R25). Bits [31:8] read 0 and hold nothing (log 16). -/
structure Status where
  busy : Bool
  done : Bool
  err : Bool
  ovr : Bool
  errcode : BitVec 4
  deriving DecidableEq, Repr

/-- The save buffer's bytes as (offset, byte) pairs in the canonical form `Memory.wf`. -/
abbrev Memory := List Host.Cell

/-- The errors of 60_exceptions.md R200. -/
inductive ErrorKind where
  | invalidFileSize
  | invalidColorCode
  | componentRange
  | illegalCommand
  deriving DecidableEq, Repr

/-- How a command ends (10_state.md R32): with a result, or with an error and its two data. -/
inductive CmdEnd where
  | ok (value : Word)
  | error (kind : ErrorKind) (info0 info1 : Word)
  deriving DecidableEq, Repr

/-- The registers of 10_state.md R22. -/
inductive Reg where
  | cmd
  | status
  | bufLen
  | result
  | errInfo0
  | errInfo1
  | pal (k : Fin Config.palEntries)
  deriving DecidableEq, Repr

/-- A move of the host between perform steps (10_state.md R20, R21). A register access is one aligned
32-bit word at an offset from REG_BASE (R23), so no constructor makes a narrower one (log 10). -/
inductive HostMove where
  /-- `WR`: one 32-bit write at a register offset (30_encoding.md R87). -/
  | write (offset : Nat) (value : Word)
  /-- `RD`: one 32-bit read at a register offset (30_encoding.md R87). -/
  | read (offset : Nat)
  /-- `WAIT`: read STATUS until BUSY reads 0; the block performs meanwhile (30_encoding.md R87). -/
  | wait
  /-- The host stores one byte of the buffer behind the read port (20_memory.md R60, R63). -/
  | storeByte (offset : Nat) (byte : Byte)
  /-- The reset input is asserted (70_reset_and_hazards.md R231). -/
  | reset
  deriving DecidableEq, Repr

/-- The machine's state. The first nine fields are the block's own (10_state.md R20); `saveBuffer`
and `presetRom` are the inputs it reads (R20, R26, R36); `hostMoves` and `readData` are the model's
own fields for the host (logs 3 and 4). -/
structure State where
  /-- CMD: the last accepted command word (R24). -/
  cmd : Word
  /-- STATUS (R25). -/
  status : Status
  /-- BUF_LEN: the length of the host's buffer (R28). -/
  bufLen : Word
  /-- RESULT: of the last command that ended without error (R29). -/
  result : Word
  /-- ERR_INFO0 (R30). -/
  errInfo0 : Word
  /-- ERR_INFO1 (R31). -/
  errInfo1 : Word
  /-- PAL0..PAL3 (R33). -/
  pal : Palette
  /-- The issued command not yet performed (R32). -/
  pending : Option Word
  /-- OUT: every word put on the output port since reset, oldest first (R40). -/
  out : List Word
  /-- SB: the save-buffer bytes (R26). -/
  saveBuffer : Memory
  /-- PRESET_ROM (R36). -/
  presetRom : PresetRom
  /-- The host's moves still to come, next first (log 3). -/
  hostMoves : List HostMove
  /-- What the host's last register read returned (log 4). -/
  readData : Word
  deriving DecidableEq, Repr

/-- Reasons a step stops the machine. No command raises one: every error of 60_exceptions.md R200 is
a next state. -/
inductive Fault where
  /-- The host stores at an offset at or above SAVE_SIZE, which the save buffer does not have
  (20_memory.md R60, R61). Raised by `HostMove.storeByte`. Safe: the machine stops. -/
  | outsideSaveBuffer (offset : Nat)
  /-- The host accesses a register offset at or above 0x1000, outside the register window
  (10_state.md R22). Raised by `HostMove.write` and `HostMove.read`. Safe: the machine stops. -/
  | outsideRegisterWindow (offset : Nat)
  deriving DecidableEq, Repr

/-- Reasons the model gives a step no meaning. -/
inductive Refusal where
  /-- An instruction without a meaning. Raised by no arm of `exec`: all six are modelled. Safe. -/
  | notModelled (mnemonic : String)
  /-- A register access at an offset that is no multiple of 4 "breaks the host contract" and the
  spec's model has no such move (10_state.md R23; 93_implementation_defined.md U8). Raised by
  `HostMove.write` and `HostMove.read`. Unsafe for a host that breaks the contract (log 10). -/
  | misalignedRegisterAccess (offset : Nat)
  /-- A save-buffer write while BUSY breaks the host contract and the spec's model has no such move
  (70_reset_and_hazards.md R241; U8). Raised by `HostMove.storeByte`. Unsafe for a host that breaks
  the contract (log 11). -/
  | bufferWriteWhileBusy (offset : Nat)
  deriving DecidableEq, Repr

/-- The palette that preset 0, BlackAndWhite, leaves: what reset loads (R33, R230). -/
def defaultPalette (rom : PresetRom) : Palette :=
  Vector.ofFn fun k => ⟨(rom.get Config.defaultPreset).get k, .valid⟩

/-- STATUS after reset: every field 0 (70_reset_and_hazards.md R230). -/
def Status.clear : Status := ⟨false, false, false, false, 0#4⟩

/-- The preset ROM of this machine, from the OPEN parameter of 00_scope.md R6 (log 2). -/
def configRom : PresetRom := Vector.ofFn fun p => Vector.ofFn fun k => Config.presetRom p k

/-- The machine right after reset (70_reset_and_hazards.md R230): idle, waiting for a CMD write. The
save buffer (log 1), the ROM's colors (log 2), `hostMoves` (log 3) and `readData` (log 4) have no
value in the spec. -/
def State.reset : State where
  cmd := 0#32
  status := Status.clear
  bufLen := 0#32
  result := 0#32
  errInfo0 := 0#32
  errInfo1 := 0#32
  pal := defaultPalette configRom
  pending := none
  out := []
  saveBuffer := []
  presetRom := configRom
  hostMoves := []
  readData := 0#32

end Sys2Proof.Machine
end

