-- ==== Sys2Proof/Machine/Flags.lean ====
section
/-! DEFINITION. STATUS: its word, and what each event writes in its flags (10_state.md R25, R37);
the error codes of 60_exceptions.md R200. -/

namespace Sys2Proof.Machine
open Sys2Proof

/-- The code of an error in STATUS.ERRCODE and in ABORT words (60_exceptions.md R200). -/
def ErrorKind.code : ErrorKind → BitVec 4
  | .invalidFileSize => 1#4
  | .invalidColorCode => 2#4
  | .componentRange => 3#4
  | .illegalCommand => 4#4

/-- STATUS as the host reads it: BUSY [0], DONE [1], ERR [2], OVR [3], ERRCODE [7:4], and bits [31:8]
0 (10_state.md R25). -/
def Status.word (st : Status) : Word :=
  0#24 ++ st.errcode ++ BitVec.ofBool st.ovr ++ BitVec.ofBool st.err ++ BitVec.ofBool st.done
    ++ BitVec.ofBool st.busy

/-- An accepted CMD write: "BUSY = 1 and the others 0" (10_state.md R24, R37). -/
def Status.issued (_ : Status) : Status := ⟨true, false, false, false, 0#4⟩

/-- A dropped write sets OVR (10_state.md R37). -/
def Status.dropped (st : Status) : Status := { st with ovr := true }

/-- The end of a perform without error: DONE, no error, OVR kept (10_state.md R32, R37). DEDUCED:
ERR is written 0, "per the outcome" (log 8). -/
def Status.endOk (st : Status) : Status :=
  { busy := false, done := true, err := false, ovr := st.ovr, errcode := 0#4 }

/-- The end of a perform with error `kind` (60_exceptions.md R210), OVR kept (10_state.md R37). -/
def Status.endError (st : Status) (kind : ErrorKind) : Status :=
  { busy := false, done := true, err := true, ovr := st.ovr, errcode := kind.code }

end Sys2Proof.Machine
end

