-- ==== Sys2Proof/Machine/Stream.lean ====
section
/-! DEFINITION. The words of the output stream (30_encoding.md R88 to R93) and the packing of a color
in a word (00_scope.md R10). -/

namespace Sys2Proof.Machine
open Sys2Proof

/-- `rgbword(c)` = {8'h00, b, g, r} (00_scope.md R10). -/
def rgbWord (c : Rgb) : Word := 0#8 ++ c.b ++ c.g ++ c.r

/-- HDR(s, n) = {4'h1, 15'b0, s[4:0], n[7:0]} (30_encoding.md R88). -/
def hdrWord (slot : BitVec 5) (n : BitVec 8) : Word := 0x1#4 ++ 0#15 ++ slot ++ n

/-- PIX(c) = {4'h2, 4'b0, b, g, r} (30_encoding.md R89). -/
def pixWord (c : Rgb) : Word := 0x2#4 ++ 0#4 ++ c.b ++ c.g ++ c.r

/-- PV(v) = {4'h3, 26'b0, v[1:0]} (30_encoding.md R90). -/
def pvWord (v : Pixel) : Word := 0x3#4 ++ 0#26 ++ v

/-- END(k) = {4'hE, 20'b0, k[7:0]} (30_encoding.md R91). -/
def endWord (k : BitVec 8) : Word := 0xE#4 ++ 0#20 ++ k

/-- ABORT(e) = {4'hF, 24'b0, e[3:0]} (30_encoding.md R92). -/
def abortWord (e : BitVec 4) : Word := 0xF#4 ++ 0#24 ++ e

/-- A stream word as the host reads it (30_encoding.md R93: "a stream word's tag alone tells its
kind"). -/
inductive StreamWord where
  | hdr (slot : BitVec 5) (n : BitVec 8)
  | pix (c : Rgb)
  | pv (v : Pixel)
  | fin (k : BitVec 8)
  | abort (e : BitVec 4)
  deriving DecidableEq, Repr

/-- The 32-bit form of a stream word (30_encoding.md R88 to R92). -/
def streamEncode : StreamWord → Word
  | .hdr slot n => hdrWord slot n
  | .pix c => pixWord c
  | .pv v => pvWord v
  | .fin k => endWord k
  | .abort e => abortWord e

/-- The kind a word's tag, bits [31:28], names, with the fields of that kind's format; none for the
tags 0x0 and 0x4 to 0xD, which "are never emitted" (30_encoding.md R93). -/
def streamFields (w : Word) : Option StreamWord :=
  let tag := w.extractLsb' 28 4
  if tag = 0x1#4 then some (.hdr (w.extractLsb' 8 5) (w.extractLsb' 0 8))
  else if tag = 0x2#4 then some (.pix ⟨w.extractLsb' 0 8, w.extractLsb' 8 8, w.extractLsb' 16 8⟩)
  else if tag = 0x3#4 then some (.pv (w.extractLsb' 0 Config.pixelBits))
  else if tag = 0xE#4 then some (.fin (w.extractLsb' 0 8))
  else if tag = 0xF#4 then some (.abort (w.extractLsb' 0 4))
  else none

/-- A word in one of the five formats, every bit the format marks 0 being 0 (30_encoding.md R93). -/
def streamWordLegal (w : Word) : Bool :=
  match streamFields w with
  | some sw => streamEncode sw == w
  | none => false

end Sys2Proof.Machine
end

