-- ==== Sys2Proof/Machine/Ops.lean ====
section
/-! DEFINITION. The named operations over the save buffer and the registers: the byte load and the
host's byte store (20_memory.md R60 to R63), the end of a perform step (10_state.md R32), raising an
error (60_exceptions.md R210), and the issue of a command, which is also what leaves the error state
(10_state.md R24; 60_exceptions.md R212). -/

namespace Sys2Proof.Machine
open Sys2Proof

/-! ## The save buffer -/

/-- What an offset no entry lists reads as. DESIGN CHOICE, log 1: the spec gives the save buffer no
first contents. -/
def Memory.blank : Byte := 0x00#8

/-- The canonical form from offset `lo` on: offsets strictly rising and below SAVE_SIZE, no entry
equal to `Memory.blank`. -/
def Memory.wfFrom (lo : Nat) : Memory → Bool
  | [] => true
  | (a, b) :: rest =>
    decide (lo ≤ a) && decide (a < Config.saveSize) && b != Memory.blank && Memory.wfFrom (a + 1) rest

/-- The canonical form of the save buffer. -/
def Memory.wf (m : Memory) : Bool := Memory.wfFrom 0 m

/-- `MemRead(a, 1)`, the byte at offset `a` (20_memory.md R61). It has no side effect (R68). -/
def Memory.read : Memory → Nat → Byte
  | [], _ => Memory.blank
  | (k, b) :: rest, a => if k = a then b else Memory.read rest a

/-- An entry put in front of a canonical tail, left out when it says nothing. -/
def Memory.cons (a : Nat) (b : Byte) (m : Memory) : Memory :=
  if b = Memory.blank then m else (a, b) :: m

/-- The buffer after the host stores `b` at offset `a` (20_memory.md R60). -/
def Memory.write : Memory → Nat → Byte → Memory
  | [], a, b => Memory.cons a b []
  | (k, x) :: rest, a, b =>
    if a < k then Memory.cons a b ((k, x) :: rest)
    else if a = k then Memory.cons a b rest
    else (k, x) :: Memory.write rest a b

/-! ## The end of a perform step -/

/-- SAVE_SIZE as BUF_LEN is compared with it (60_exceptions.md R206). -/
def saveSizeWord : Word := BitVec.ofNat 32 Config.saveSize

/-- The end of perform (10_state.md R32): the command's words go to the output stream, its outcome to
RESULT or to ERR_INFO0 and ERR_INFO1, and nothing is pending any more. -/
def State.finish (s : State) (words : List Word) : CmdEnd → State
  | .ok value =>
    { s with out := s.out ++ words, result := value, status := s.status.endOk, pending := none }
  | .error kind info0 info1 =>
    { s with out := s.out ++ words, errInfo0 := info0, errInfo1 := info1,
             status := s.status.endError kind, pending := none }

/-- A command that ends without error after emitting `words` (10_state.md R32). -/
def State.complete (s : State) (words : List Word) (value : Word) : State :=
  s.finish words (.ok value)

/-- `raise E(i0, i1)` in DECODE_SLOT or DECODE_SAVE: ABORT closes the command's words
(60_exceptions.md R210; 30_encoding.md R92). -/
def State.raiseAbort (s : State) (words : List Word) (kind : ErrorKind) (info0 info1 : Word) : State :=
  s.finish (words ++ [abortWord kind.code]) (.error kind info0 info1)

/-- `raise E(i0, i1)` in any other command: no stream word (60_exceptions.md R210; 10_state.md R39). -/
def State.raiseQuiet (s : State) (kind : ErrorKind) (info0 info1 : Word) : State :=
  s.finish [] (.error kind info0 info1)

/-- IllegalCommand(w, 0): no stream word and no other effect (60_exceptions.md R204, R210). -/
def State.raiseIllegal (s : State) (w : Word) : State := s.raiseQuiet .illegalCommand w 0#32

/-! ## The issue of a command -/

/-- An accepted CMD write (10_state.md R24). It also ends the error state of the command before it
(60_exceptions.md R212). -/
def State.issue (s : State) (w : Word) : State :=
  { s with cmd := w, pending := some w, status := s.status.issued }

/-- A write dropped because BUSY is 1 (10_state.md R24, R28, R35). -/
def State.dropWrite (s : State) : State := { s with status := s.status.dropped }

/-- The reset input (70_reset_and_hazards.md R230, R231): every item of the block's state at once; a
pending command is dropped. The save buffer and the ROM are untouched, and so is what the host holds
(log 21). -/
def State.resetBlock (s : State) : State :=
  { s with cmd := 0#32, status := Status.clear, bufLen := 0#32, result := 0#32, errInfo0 := 0#32,
           errInfo1 := 0#32, pal := defaultPalette s.presetRom, pending := none, out := [] }

end Sys2Proof.Machine
end

