-- ==== Sys2Proof/Machine/Operands.lean ====
section
/-! DEFINITION. The operand forms of the commands: the three loads of 20_memory.md R76 with their
effective addresses, the palette index, and the error data made of an operand or of a loop position
(10_state.md R31). No command has a register or an address operand (30_encoding.md R82). -/

namespace Sys2Proof.Machine
open Sys2Proof

/-- Entry index of a pixel value: "every index selects an entry" (41_palette_mapper.md R133). -/
def palIndex (v : Pixel) : Fin Config.palEntries := ⟨v.toNat, v.isLt⟩

/-- Offset of slot `s`'s active flag (10_state.md R27; the flag load of 20_memory.md R76). -/
def flagOffset (s : Nat) : Nat := Config.flagBase + s

/-- `active(SB, s)`: the flag byte is not 0xFF (10_state.md R27). -/
def active (m : Memory) (s : Nat) : Bool := m.read (flagOffset s) != Config.flagDeleted

/-- `baseOffset(s)` (42_tile_decoder.md R152). -/
def baseOffset (s : Nat) : Nat := Config.imgBase + s * Config.slotStride

/-- `tileIndex(y, x)`: tiles are stored row-major, 16 per row (42_tile_decoder.md R152). -/
def tileIndex (y x : Nat) : Nat := y / Config.tileDim * Config.tilesX + x

/-- `tileStart(s, y, x)` (42_tile_decoder.md R152). -/
def tileStart (s y x : Nat) : Nat := baseOffset s + Config.tileBytes * tileIndex y x

/-- `rowOffset(s, y, x)`, the low plane's offset (42_tile_decoder.md R152). -/
def rowOffset (s y x : Nat) : Nat := tileStart s y x + 2 * (y % Config.tileDim)

/-- The low-plane load (20_memory.md R76). -/
def planeLow (m : Memory) (s y x : Nat) : Byte := m.read (rowOffset s y x)

/-- The high-plane load, at the byte after the low plane (20_memory.md R65, R76). -/
def planeHigh (m : Memory) (s y x : Nat) : Byte := m.read (rowOffset s y x + 1)

/-- ERR_INFO0 of a palette error: the entry index (10_state.md R30). -/
def entryInfo (v : Pixel) : Word := v.setWidth 32

/-- ERR_INFO1 of DECODE_SAVE: {11'b0, s[4:0], 1'b0, y[6:0], 1'b0, c[6:0]} (10_state.md R31). -/
def positionInfo (s y c : Nat) : Word :=
  0#11 ++ BitVec.ofNat 5 s ++ 0#1 ++ BitVec.ofNat 7 y ++ 0#1 ++ BitVec.ofNat 7 c

/-- ERR_INFO1 of LOOKUP: no position (10_state.md R31). -/
def noPosition : Word := 0x80000000#32

end Sys2Proof.Machine
end

