-- ==== Sys2Proof/Machine/Palette.lean ====
section
/-! DEFINITION. The palette color mapper (41_palette_mapper.md): the palette word, the WARL write, the
mapping function, and the commands PRESET and LOOKUP. -/

namespace Sys2Proof.Machine
open Sys2Proof

/-- The 2-bit code of an entry status (10_state.md R34). -/
def EntryStatus.code : EntryStatus → BitVec 2
  | .valid => 0#2
  | .badCode => 1#2
  | .badRange => 2#2

/-- WARL: the status stored for a written field; 3 stores 1 (10_state.md R35). -/
def entryStatusOf (field : BitVec 2) : EntryStatus :=
  if field = 0#2 then .valid else if field = 2#2 then .badRange else .badCode

/-- `palword(color, st)` = {6'b0, st, b, g, r} (10_state.md R33). -/
def palWord (e : PalEntry) : Word := 0#6 ++ e.st.code ++ e.color.b ++ e.color.g ++ e.color.r

/-- The entry a host write of `v` to PAL`k` stores; bits [31:26] are ignored (10_state.md R35). -/
def entryOfWord (v : Word) : PalEntry :=
  ⟨⟨v.extractLsb' 0 8, v.extractLsb' 8 8, v.extractLsb' 16 8⟩, entryStatusOf (v.extractLsb' 24 2)⟩

/-- `mapValue(v)` (41_palette_mapper.md R137): the color of entry `v`, or its error with the entry. -/
def mapValue (pal : Palette) (v : Pixel) : Except (ErrorKind × Pixel) Rgb :=
  match (pal.get (palIndex v)).st with
  | .valid => .ok (pal.get (palIndex v)).color
  | .badCode => .error (.invalidColorCode, v)
  | .badRange => .error (.componentRange, v)

/-- The palette that preset `p` is (41_palette_mapper.md R136): the ROM's colors, all VALID. -/
def presetPalette (rom : PresetRom) (p : Fin Config.numPresets) : Palette :=
  Vector.ofFn fun k => ⟨(rom.get p).get k, .valid⟩

/-- PRESET (41_palette_mapper.md R136). A PID of 15, which `decode` never gives, is IllegalCommand
with its word (R136, Exceptions; log 9). -/
def execPreset (pid : BitVec 4) (s : State) : Host.Outcome State Fault Refusal :=
  if h : presetLegal pid then
    .next ({ s with pal := presetPalette s.presetRom ⟨pid.toNat, h⟩ }.complete [] (pid.setWidth 32))
  else .next (s.raiseIllegal (encode (.preset pid)))

/-- LOOKUP (41_palette_mapper.md R138). -/
def execLookup (v : Pixel) (s : State) : Host.Outcome State Fault Refusal :=
  match mapValue s.pal v with
  | .ok c => .next (s.complete [] (rgbWord c))
  | .error (kind, k) => .next (s.raiseQuiet kind (entryInfo k) noPosition)

end Sys2Proof.Machine
end

