-- ==== Sys2Proof/Machine/Tile.lean ====
section
/-! DEFINITION. The tile decoder (42_tile_decoder.md): the bitplane unpacker, the grid scan, and the
commands DECODE_SLOT, CHECK_ACTIVE and UNPACK. -/

namespace Sys2Proof.Machine
open Sys2Proof

/-- Lane `i` of `unpack(lo, hi)`: {hi[7-i], lo[7-i]} (42_tile_decoder.md R150). -/
def unpackLane (lo hi : Byte) (i : Nat) : Pixel :=
  BitVec.ofBool (hi.getLsbD (7 - i)) ++ BitVec.ofBool (lo.getLsbD (7 - i))

/-- `unpack(lo, hi)`, the 8 lanes, lane 0 leftmost (42_tile_decoder.md R150). -/
def unpack (lo hi : Byte) : Vector Pixel Config.tileDim :=
  Vector.ofFn fun i => unpackLane lo hi i.val

/-- `pixel(SB, s, y, c)` (42_tile_decoder.md R153): tile column c div 8, lane c mod 8. As a function of
`y` below 112 and `c` below 128 it is the slot's PixelGrid, `decodeSlot(SB, s)` (R154, R155). -/
def pixel (m : Memory) (s y c : Nat) : Pixel :=
  unpackLane (planeLow m s y (c / Config.tileDim)) (planeHigh m s y (c / Config.tileDim))
    (c % Config.tileDim)

/-- The coordinates (y, c) of an image in row-major order (42_tile_decoder.md R158). -/
def rowMajor : List (Nat × Nat) :=
  (List.range Config.imgH).flatMap fun y => (List.range Config.imgW).map fun c => (y, c)

/-- The words of a successful DECODE_SLOT(s) (42_tile_decoder.md R160). -/
def slotWords (m : Memory) (slot : BitVec 5) : List Word :=
  hdrWord slot 1#8 :: (rowMajor.map fun p => pvWord (pixel m slot.toNat p.1 p.2)) ++ [endWord 1#8]

/-- RESULT of UNPACK: the sum over i of lane i shifted left by 2i (42_tile_decoder.md R164). -/
def packLanes (lanes : Vector Pixel Config.tileDim) : Word :=
  (List.finRange Config.tileDim).foldl
    (fun w i => w + (lanes.get i).setWidth 32 <<< (Config.pixelBits * i.val)) 0#32

/-- DECODE_SLOT (42_tile_decoder.md R160). SLOT 30 and 31, which `decode` never gives, are
IllegalCommand with their word (R160, Exceptions; log 9). -/
def execDecodeSlot (slot : BitVec 5) (s : State) : Host.Outcome State Fault Refusal :=
  if slotLegal slot then
    if s.bufLen = saveSizeWord then .next (s.complete (slotWords s.saveBuffer slot) 1#32)
    else .next (s.raiseAbort [] .invalidFileSize saveSizeWord s.bufLen)
  else .next (s.raiseIllegal (encode (.decodeSlot slot)))

/-- CHECK_ACTIVE (42_tile_decoder.md R162). SLOT 30 and 31, which `decode` never gives, are
IllegalCommand with their word (R162, Exceptions; log 9). -/
def execCheckActive (slot : BitVec 5) (s : State) : Host.Outcome State Fault Refusal :=
  if slotLegal slot then
    if s.bufLen = saveSizeWord then
      .next (s.complete [] (if active s.saveBuffer slot.toNat then 1#32 else 0#32))
    else .next (s.raiseQuiet .invalidFileSize saveSizeWord s.bufLen)
  else .next (s.raiseIllegal (encode (.checkActive slot)))

/-- UNPACK (42_tile_decoder.md R164). -/
def execUnpack (lo hi : Byte) (s : State) : Host.Outcome State Fault Refusal :=
  .next (s.complete [] (packLanes (unpack lo hi)))

end Sys2Proof.Machine
end

