-- ==== Sys2Proof/Machine/Save.lean ====
section
/-! DEFINITION. The save sequencer: the command DECODE_SAVE (43_save_decoder.md R180 to R187). -/

namespace Sys2Proof.Machine
open Sys2Proof

/-- The first pixel of a command whose value selects a BAD entry: its error, the entry and the
position (43_save_decoder.md R183). -/
structure PixelFailure where
  kind : ErrorKind
  entry : Pixel
  slot : Nat
  row : Nat
  col : Nat
  deriving DecidableEq, Repr

/-- The PIX words of slot `slot`'s pixels at the given coordinates, in order, up to the first pixel
that selects a BAD entry, and that failure (43_save_decoder.md R180, inner loops). -/
def mapPixels (pal : Palette) (m : Memory) (slot : Nat) :
    List (Nat × Nat) → List Word × Option PixelFailure
  | [] => ([], none)
  | (y, c) :: rest =>
    match mapValue pal (pixel m slot y c) with
    | .ok color =>
      let (words, failure) := mapPixels pal m slot rest
      (pixWord color :: words, failure)
    | .error (kind, entry) => ([], some ⟨kind, entry, slot, y, c⟩)

/-- The loop over slots with `n` images emitted so far (43_save_decoder.md R180): the words up to
END, or up to the failing pixel, and the image count or the failure. -/
def decodeSlots (pal : Palette) (m : Memory) (inc : Bool) :
    List Nat → Nat → List Word × Except PixelFailure Nat
  | [], n => ([endWord (BitVec.ofNat 8 n)], .ok n)
  | slot :: rest, n =>
    if !inc && !active m slot then decodeSlots pal m inc rest n
    else
      let header := hdrWord (BitVec.ofNat 5 slot) (BitVec.ofNat 8 (n + 1))
      match mapPixels pal m slot rowMajor with
      | (words, none) =>
        let (more, last) := decodeSlots pal m inc rest (n + 1)
        (header :: words ++ more, last)
      | (words, some failure) => (header :: words, .error failure)

/-- DECODE_SAVE (43_save_decoder.md R180). -/
def execDecodeSave (inc : Bool) (s : State) : Host.Outcome State Fault Refusal :=
  if s.bufLen = saveSizeWord then
    match decodeSlots s.pal s.saveBuffer inc (List.range Config.numSlots) 0 with
    | (words, .ok n) => .next (s.complete words (BitVec.ofNat 32 n))
    | (words, .error f) =>
      .next (s.raiseAbort words f.kind (entryInfo f.entry) (positionInfo f.slot f.row f.col))
  else .next (s.raiseAbort [] .invalidFileSize saveSizeWord s.bufLen)

end Sys2Proof.Machine
end

