-- ==== Sys2Proof/Machine/Dispatch.lean ====
section
/-! DEFINITION. The one match over the commands (30_encoding.md R84). -/

namespace Sys2Proof.Machine
open Sys2Proof

def exec (i : Instr) (s : State) : Host.Outcome State Fault Refusal :=
  match i with
  | .preset pid => Sys2Proof.Machine.execPreset pid s
  | .decodeSlot slot => Sys2Proof.Machine.execDecodeSlot slot s
  | .decodeSave inc => Sys2Proof.Machine.execDecodeSave inc s
  | .lookup v => Sys2Proof.Machine.execLookup v s
  | .checkActive slot => Sys2Proof.Machine.execCheckActive slot s
  | .unpack lo hi => Sys2Proof.Machine.execUnpack lo hi s

end Sys2Proof.Machine
end

