-- ==== Sys2Proof/Machine/HostBus.lean ====
section
/-! DEFINITION. The host's side of the register window and of the save buffer: the register map, reads
and writes, byte stores and the reset input (10_state.md R22 to R25, R28, R35; 20_memory.md R63;
70_reset_and_hazards.md R231). -/

namespace Sys2Proof.Machine
open Sys2Proof

/-- The register map (10_state.md R22). Every other offset of the window is reserved. -/
def registerMap : List (Nat × Reg) :=
  [(0x00, .cmd), (0x04, .status), (0x08, .bufLen), (0x0C, .result), (0x10, .errInfo0),
   (0x14, .errInfo1), (0x20, .pal 0), (0x24, .pal 1), (0x28, .pal 2), (0x2C, .pal 3)]

/-- The register at an offset; none at a reserved one (10_state.md R22). -/
def regAt (offset : Nat) : Option Reg := registerMap.lookup offset

/-- The offset of a register (10_state.md R22; PAL`k` at 0x20 + 4k, R33). -/
def regOffset : Reg → Nat
  | .cmd => 0x00
  | .status => 0x04
  | .bufLen => 0x08
  | .result => 0x0C
  | .errInfo0 => 0x10
  | .errInfo1 => 0x14
  | .pal k => 0x20 + 4 * k.val

/-- The host address of a register offset, `REG_BASE` being open (00_scope.md R6; log 14). -/
def registerAddress (offset : Nat) : Nat := Config.regBase + offset

/-- The host address of a save-buffer offset, `SB_BASE` being open (20_memory.md R61; log 14). -/
def saveAddress (offset : Nat) : Nat := Config.saveBase + offset

/-- What a register reads as (10_state.md R24, R25, R28 to R31, R33). -/
def State.readReg (s : State) : Reg → Word
  | .cmd => s.cmd
  | .status => s.status.word
  | .bufLen => s.bufLen
  | .result => s.result
  | .errInfo0 => s.errInfo0
  | .errInfo1 => s.errInfo1
  | .pal k => palWord (s.pal.get k)

/-- A host read; a reserved offset returns 0 (10_state.md R23). -/
def State.readRegister (s : State) (offset : Nat) : Word :=
  match regAt offset with
  | some r => s.readReg r
  | none => 0#32

/-- A host write to CMD: the issue, or a dropped write while BUSY (10_state.md R24). -/
def State.writeCmd (s : State) (w : Word) : State := if s.status.busy then s.dropWrite else s.issue w

/-- A host write to BUF_LEN (10_state.md R28). -/
def State.writeBufLen (s : State) (v : Word) : State :=
  if s.status.busy then s.dropWrite else { s with bufLen := v }

/-- A host write to PAL`k` (10_state.md R35). -/
def State.writePal (s : State) (k : Fin Config.palEntries) (v : Word) : State :=
  if s.status.busy then s.dropWrite else { s with pal := s.pal.set k.val (entryOfWord v) k.isLt }

/-- A host write; at a read-only or a reserved offset it is ignored and sets no OVR (10_state.md R23). -/
def State.writeRegister (s : State) (offset : Nat) (v : Word) : State :=
  match regAt offset with
  | some .cmd => s.writeCmd v
  | some .bufLen => s.writeBufLen v
  | some (.pal k) => s.writePal k v
  | some .status => s
  | some .result => s
  | some .errInfo0 => s
  | some .errInfo1 => s
  | none => s

/-- A register access at `offset` that answers `s'` when the bus contract holds (10_state.md R22,
R23; logs 10 and 12). -/
def registerAccess (offset : Nat) (s' : State) : Host.Outcome State Fault Refusal :=
  if Config.regWindow ≤ offset then .fault (.outsideRegisterWindow offset)
  else if offset % 4 ≠ 0 then .refused (.misalignedRegisterAccess offset)
  else .next s'

/-- The host stores one byte of the buffer, not while BUSY (20_memory.md R60, R63; logs 11 and 12). -/
def storeByte (offset : Nat) (byte : Byte) (s : State) : Host.Outcome State Fault Refusal :=
  if Config.saveSize ≤ offset then .fault (.outsideSaveBuffer offset)
  else if s.status.busy then .refused (.bufferWriteWhileBusy offset)
  else .next { s with saveBuffer := s.saveBuffer.write offset byte }

/-- One poll of `WAIT` when no command is pending: the host reads STATUS and leaves the loop when
BUSY reads 0 (30_encoding.md R87). -/
def State.poll (s : State) (rest : List HostMove) : State :=
  if s.status.busy then { s with readData := s.status.word }
  else { s with readData := s.status.word, hostMoves := rest }

end Sys2Proof.Machine
end

