-- ==== Sys2Proof/Machine/Sequencer.lean ====
section
/-! DEFINITION. Whose turn it is and what that agent does: the perform step of the block (10_state.md
R32) and the moves of the host (R20, R21), one step each. -/

namespace Sys2Proof.Machine
open Sys2Proof

/-- The perform step for the issued word `w` (10_state.md R32): decode, then execute; an illegal word
raises IllegalCommand (30_encoding.md R83; 60_exceptions.md R204). -/
def perform (w : Word) (s : State) : Host.Outcome State Fault Refusal :=
  match decode w with
  | .ok i => exec i s
  | .error _ => .next (s.raiseIllegal w)

/-- The block's turn: perform is enabled exactly when a command is pending (10_state.md R32);
otherwise the block is idle, "waiting for a CMD write" (70_reset_and_hazards.md R230; log 6). -/
def blockTurn (s : State) : Host.Outcome State Fault Refusal :=
  match s.pending with
  | some w => perform w s
  | none => .next s

/-- `WAIT` at the head of the host's moves, `rest` behind it: the block performs a pending command,
and the host leaves the loop once BUSY reads 0 (30_encoding.md R87). -/
def waitTurn (rest : List HostMove) (s : State) : Host.Outcome State Fault Refusal :=
  match s.pending with
  | some w => perform w s
  | none => .next (s.poll rest)

/-- The host's turn: its next move is made and taken off the list. A reset leaves the moves behind it
(log 21). -/
def hostTurn (move : HostMove) (rest : List HostMove) (s : State) : Host.Outcome State Fault Refusal :=
  match move with
  | .write offset v => registerAccess offset { s.writeRegister offset v with hostMoves := rest }
  | .read offset => registerAccess offset { s with readData := s.readRegister offset, hostMoves := rest }
  | .wait => waitTurn rest s
  | .storeByte offset b => storeByte offset b { s with hostMoves := rest }
  | .reset => .next { s.resetBlock with hostMoves := rest }

/-- One step of the machine: the host's next move if it has one, else the block's turn (logs 3, 7). -/
def advance (s : State) : Host.Outcome State Fault Refusal :=
  match s.hostMoves with
  | [] => blockTurn s
  | move :: rest => hostTurn move rest s

/-- The state in which `w` has just been accepted by CMD and the block's turn comes next, whatever
was pending before: the effect of an accepted CMD write (10_state.md R24), and a `WAIT` ahead of any
move the host still has (log 5). -/
def placeCommand (s : State) (w : Word) : State :=
  { s.issue w with hostMoves := if s.hostMoves.isEmpty then [] else .wait :: s.hostMoves }

end Sys2Proof.Machine
end

