-- ==== Sys2Proof/Machine/Step.lean ====
section
/-! DEFINITION. One step of the machine, and the host's placing of a command for the next step. -/

namespace Sys2Proof.Machine
open Sys2Proof

/-- One step (10_state.md R20, R21, R32). -/
def step (s : State) : Host.Outcome State Fault Refusal := advance s

/-- `s` with the command of bits `w` (bits at and above `nbits` 0) issued, so that the next step
performs exactly it (10_state.md R24; log 5). -/
def State.withFetchWord (s : State) (nbits w : Nat) : State :=
  placeCommand s (BitVec.ofNat 32 (w % 2 ^ nbits))

end Sys2Proof.Machine
end

