-- ==== Sys2Proof/Machine/Resolver.lean ====
section
/-! DEFINITION. The color resolver, "the host-side function that says what a palette entry loaded from
a color expression holds" (00_scope.md R4; 40_color_resolver.md R100 to R112), and the palette word of
an expression (41_palette_mapper.md R131). -/

namespace Sys2Proof.Machine
open Sys2Proof

/-- A color expression: "a finite sequence of characters" (40_color_resolver.md R101; log 15). -/
abbrev ColorExpr := List Char

/-- The resolver's one error, with the offending string (40_color_resolver.md R110). -/
inductive ResolveError where
  | invalidColorCode (expression : ColorExpr)
  deriving DecidableEq, Repr

/-- The value of a decimal digit character. -/
def digitVal (c : Char) : Option Nat :=
  if 48 ≤ c.toNat ∧ c.toNat ≤ 57 then some (c.toNat - 48) else none

/-- The value of a hex digit character, either case (40_color_resolver.md R103). -/
def hexVal (c : Char) : Option Nat :=
  if 48 ≤ c.toNat ∧ c.toNat ≤ 57 then some (c.toNat - 48)
  else if 97 ≤ c.toNat ∧ c.toNat ≤ 102 then some (c.toNat - 87)
  else if 65 ≤ c.toNat ∧ c.toNat ≤ 70 then some (c.toNat - 55)
  else none

/-- The values of a string of hex digits; none if another character stands in it. -/
def hexVals : List Char → Option (List Nat)
  | [] => some []
  | c :: rest =>
    match hexVal c, hexVals rest with
    | some d, some ds => some (d :: ds)
    | _, _ => none

/-- The string after an optional leading `#` (40_color_resolver.md R103). -/
def dropHash : List Char → List Char
  | [] => []
  | c :: rest => if c = '#' then rest else c :: rest

/-- The hex grammar and its value: 3 digits with each nibble duplicated, or 6 digits in pairs, the
first pair red (40_color_resolver.md R103, R104, R105). -/
def parseHex (e : ColorExpr) : Option (Nat × Nat × Nat) :=
  match hexVals (dropHash e) with
  | some [d0, d1, d2] => some (17 * d0, 17 * d1, 17 * d2)
  | some [d0, d1, d2, d3, d4, d5] => some (16 * d0 + d1, 16 * d2 + d3, 16 * d4 + d5)
  | _ => none

/-- The leading decimal digits of a string, as values, and the rest. -/
def takeDigits : List Char → List Nat × List Char
  | [] => ([], [])
  | c :: rest =>
    match digitVal c with
    | some d => (d :: (takeDigits rest).1, (takeDigits rest).2)
    | none => ([], c :: rest)

/-- A component: one digit, two digits, or three of which the first is at most `maxLead`
(40_color_resolver.md R106 with 2, R108 with 1), read as a decimal number (R107). -/
def componentVal (maxLead : Nat) : List Nat → Option Nat
  | [a] => some a
  | [a, b] => some (10 * a + b)
  | [a, b, c] => if a ≤ maxLead then some (100 * a + 10 * b + c) else none
  | _ => none

/-- The string after a required character. -/
def dropChar (c : Char) : List Char → Option (List Char)
  | [] => none
  | x :: rest => if x = c then some rest else none

/-- The string after SP: zero or more U+0020 (40_color_resolver.md R106). -/
def dropSpaces : List Char → List Char
  | [] => []
  | c :: rest => if c = ' ' then dropSpaces rest else c :: rest

/-- The string after the keyword `rgb` in any mix of case (40_color_resolver.md R106). -/
def dropKeyword : List Char → Option (List Char)
  | r :: g :: b :: rest =>
    if (r = 'r' ∨ r = 'R') ∧ (g = 'g' ∨ g = 'G') ∧ (b = 'b' ∨ b = 'B') then some rest else none
  | _ => none

/-- One component, followed at once by `%` in the percentage form (40_color_resolver.md R106, R108). -/
def takeComponent (maxLead : Nat) (percent : Bool) (e : List Char) : Option (Nat × List Char) :=
  match componentVal maxLead (takeDigits e).1 with
  | none => none
  | some n =>
    if percent then
      match dropChar '%' (takeDigits e).2 with
      | some rest => some (n, rest)
      | none => none
    else some (n, (takeDigits e).2)

/-- The string after SP "," SP (40_color_resolver.md R106). -/
def dropComma (e : List Char) : Option (List Char) := (dropChar ',' (dropSpaces e)).map dropSpaces

/-- The whole-string `rgb(...)` forms (40_color_resolver.md R106, R108). -/
def parseTriple (maxLead : Nat) (percent : Bool) (e : ColorExpr) : Option (Nat × Nat × Nat) := do
  let e ← dropKeyword e
  let e ← dropChar '(' e
  let (c1, e) ← takeComponent maxLead percent e
  let e ← dropComma e
  let (c2, e) ← takeComponent maxLead percent e
  let e ← dropComma e
  let (c3, e) ← takeComponent maxLead percent e
  let e ← dropChar ')' e
  if e = [] then some (c1, c2, c3) else none

/-- The integer form: components 0..299, no clamping (40_color_resolver.md R106, R107). -/
def parseRgb (e : ColorExpr) : Option (Nat × Nat × Nat) := parseTriple 2 false e

/-- `pctToByte(p)` = floor(p * 255 / 100), exact (40_color_resolver.md R109). -/
def pctToByte (p : Nat) : Nat := p * 255 / 100

/-- The percentage form: components 0..199 percent (40_color_resolver.md R108, R109). -/
def parsePct (e : ColorExpr) : Option (Nat × Nat × Nat) :=
  (parseTriple 1 true e).map fun (p1, p2, p3) => (pctToByte p1, pctToByte p2, pctToByte p3)

/-- The literal that stands for white (40_color_resolver.md R102). -/
def transparentName : ColorExpr := ['t', 'r', 'a', 'n', 's', 'p', 'a', 'r', 'e', 'n', 't']

/-- The step before the grammars: exactly `transparent` becomes `#FFF` (40_color_resolver.md R102). -/
def expandTransparent (e : ColorExpr) : ColorExpr :=
  if e = transparentName then ['#', 'F', 'F', 'F'] else e

/-- `resolve(e)` (40_color_resolver.md R100): the first grammar that matches, else InvalidColorCode
with the expression as given (R110). -/
def resolve (e : ColorExpr) : Except ResolveError (Nat × Nat × Nat) :=
  match parseHex (expandTransparent e) with
  | some c => .ok c
  | none =>
    match parseRgb (expandTransparent e) with
    | some c => .ok c
    | none =>
      match parsePct (expandTransparent e) with
      | some c => .ok c
      | none => .error (.invalidColorCode e)

/-- The entry that a resolution gives: `classify` (40_color_resolver.md R111) with the color bits of
`entryword` (41_palette_mapper.md R131). -/
def classify : Except ResolveError (Nat × Nat × Nat) → PalEntry
  | .error _ => ⟨⟨0#8, 0#8, 0#8⟩, .badCode⟩
  | .ok (r, g, b) =>
    if max r (max g b) ≤ 255 then
      ⟨⟨BitVec.ofNat 8 r, BitVec.ofNat 8 g, BitVec.ofNat 8 b⟩, .valid⟩
    else ⟨⟨0#8, 0#8, 0#8⟩, .badRange⟩

/-- `entryword(e)`, what the host writes to PAL`k` for expression `e` (41_palette_mapper.md R131). -/
def entryWord (e : ColorExpr) : Word := palWord (classify (resolve e))

/-- DOC0's lazy use of a palette of expressions: resolve the selected expression when a pixel uses it,
and fail if it names no RGB888 color (41_palette_mapper.md R130). -/
def lazyMap (exprs : Vector ColorExpr Config.palEntries) (v : Pixel) :
    Except (ErrorKind × Pixel) Rgb :=
  match resolve (exprs.get (palIndex v)) with
  | .error _ => .error (.invalidColorCode, v)
  | .ok (r, g, b) =>
    if r ≤ 255 ∧ g ≤ 255 ∧ b ≤ 255 then .ok ⟨BitVec.ofNat 8 r, BitVec.ofNat 8 g, BitVec.ofNat 8 b⟩
    else .error (.componentRange, v)

end Sys2Proof.Machine
end

