-- ==== Sys2Proof/Machine/HostSide.lean ====
section
/-! DEFINITION. The host's own work around the block, as far as spec/ gives it: the assembler and the
pseudo-instructions (30_encoding.md R87), the preset names (41_palette_mapper.md R135), loading a
palette (R132), reporting an error (60_exceptions.md R211) and discarding an aborted command's words
(70_reset_and_hazards.md R242). -/

namespace Sys2Proof.Machine
open Sys2Proof

/-! ## Pseudo-instructions (30_encoding.md R87) -/

/-- `ISSUE` of a command word: `WR CMD, w`. -/
def issueWord (w : Word) : List HostMove := [.write (regOffset .cmd) w]

/-- `ISSUE <command>`. -/
def issueCommand (i : Instr) : List HostMove := issueWord (encode i)

/-- `RUN` of a command word: `ISSUE` then `WAIT`. -/
def runWord (w : Word) : List HostMove := issueWord w ++ [.wait]

/-- `RUN <command>`. -/
def runCommand (i : Instr) : List HostMove := runWord (encode i)

/-- What BUF_LEN is written for a buffer of `len` bytes: `min(len, 0xFFFFFFFF)` (10_state.md R28). -/
def reportedLength (len : Nat) : Word := BitVec.ofNat 32 (min len 0xFFFFFFFF)

/-- `SETLEN <n>`. -/
def setLen (len : Nat) : List HostMove := [.write (regOffset .bufLen) (reportedLength len)]

/-- `SETPAL <k>, <expr>`. -/
def setPal (k : Fin Config.palEntries) (e : ColorExpr) : List HostMove :=
  [.write (regOffset (.pal k)) (entryWord e)]

/-- `LOADPAL <e0>, <e1>, <e2>, <e3>`: DOC0's `fromColors` (41_palette_mapper.md R132). -/
def loadPal (e0 e1 e2 e3 : ColorExpr) : List HostMove :=
  setPal 0 e0 ++ setPal 1 e1 ++ setPal 2 e2 ++ setPal 3 e3

/-- The host fills the buffer behind the read port from `offset` on (20_memory.md R63). -/
def placeBytes (offset : Nat) : List Byte → List HostMove
  | [] => []
  | b :: rest => .storeByte offset b :: placeBytes (offset + 1) rest

/-! ## The assembler (30_encoding.md R87) -/

/-- The preset names in the order of their ids (41_palette_mapper.md R135). -/
def presetNames : List String :=
  ["BlackAndWhite", "Gameboy", "GameboyPlayer", "GameboyColorUp", "GameboyColorUpA", "GameboyColorUpB",
   "GameboyColorDown", "GameboyColorDownA", "GameboyColorDownB", "GameboyColorLeft",
   "GameboyColorLeftA", "GameboyColorLeftB", "GameboyColorRight", "GameboyColorRightA",
   "GameboyColorRightB"]

/-- A letter in upper case; every other character as it is. -/
def upperChar (c : Char) : Char :=
  if 97 ≤ c.toNat ∧ c.toNat ≤ 122 then Char.ofNat (c.toNat - 32) else c

/-- Equality of a token and a name, "case-insensitive" (30_encoding.md R87). -/
def sameName (token : List Char) (name : String) : Bool :=
  token.map upperChar == name.toList.map upperChar

/-- The number that digit values give in a base, most significant first. -/
def digitsIn (base : Nat) (ds : List Nat) : Nat := ds.foldl (fun n d => base * n + d) 0

/-- A number token: decimal, or hex with `0x` (30_encoding.md R87). DESIGN CHOICE, log 17: either case
of a hex digit, leading zeros allowed, and no `0X`. -/
def parseNumber (token : List Char) : Option Nat :=
  match token with
  | '0' :: 'x' :: c :: rest => (hexVals (c :: rest)).map (digitsIn 16)
  | _ =>
    match takeDigits token with
    | (d :: ds, []) => some (digitsIn 10 (d :: ds))
    | _ => none

/-- The id of a preset token: one of the 15 names, else a number (30_encoding.md R87). -/
def parsePreset (token : List Char) : Option Nat :=
  match presetNames.findIdx? (sameName token) with
  | some pid => some pid
  | none => parseNumber token

/-- An instruction whose operand is a number below `limit`; other numbers are rejected (log 17). -/
def operandBelow (limit : Nat) (value : Option Nat) (i : Nat → Instr) : Option Instr :=
  match value with
  | some n => if n < limit then some (i n) else none
  | none => none

/-- The assembler over a line's tokens, commas and spaces left out (30_encoding.md R87; log 17).
DESIGN CHOICE, log 17: the keyword `INC` is taken in any mix of case; R87 says so of mnemonics and
preset names and is silent on `INC`. -/
def assemble : List (List Char) → Option Instr
  | [m] => if sameName m "DECODE_SAVE" then some (.decodeSave false) else none
  | [m, a] =>
    if sameName m "PRESET" then
      operandBelow Config.numPresets (parsePreset a) fun n => .preset (BitVec.ofNat 4 n)
    else if sameName m "DECODE_SLOT" then
      operandBelow Config.numSlots (parseNumber a) fun n => .decodeSlot (BitVec.ofNat 5 n)
    else if sameName m "DECODE_SAVE" then
      if sameName a "INC" then some (.decodeSave true) else none
    else if sameName m "LOOKUP" then
      operandBelow Config.palEntries (parseNumber a) fun n => .lookup (BitVec.ofNat Config.pixelBits n)
    else if sameName m "CHECK_ACTIVE" then
      operandBelow Config.numSlots (parseNumber a) fun n => .checkActive (BitVec.ofNat 5 n)
    else none
  | [m, lo, hi] =>
    if sameName m "UNPACK" then
      match parseNumber hi with
      | some h =>
        if h < 256 then
          operandBelow 256 (parseNumber lo) fun n => .unpack (BitVec.ofNat 8 n) (BitVec.ofNat 8 h)
        else none
      | none => none
    else none
  | _ => none

/-! ## Reading a result -/

/-- The error values the host reports to its caller (60_exceptions.md R211). DESIGN CHOICE, log 24:
ComponentRange is a value of its own, with the offending expression, for R211 leaves the form of that
report to the host; so is IllegalCommand, with its word (R204), of which R211 says nothing. -/
inductive HostError where
  | invalidFileSize (expected actual : Word)
  | invalidColorCode (expression : ColorExpr)
  | componentRange (expression : ColorExpr)
  | illegalCommand (word : Word)
  deriving DecidableEq, Repr

/-- The expression the host loaded into the entry ERR_INFO0 names (60_exceptions.md R211). -/
def offendingExpression (exprs : Vector ColorExpr Config.palEntries) (s : State) : ColorExpr :=
  exprs.get (palIndex (s.errInfo0.setWidth Config.pixelBits))

/-- The error of the last performed command, from STATUS and ERR_INFO0/1 and the expressions the host
keeps (60_exceptions.md R211; 41_palette_mapper.md R131); none when ERR is 0. DESIGN CHOICE, log 24:
that ComponentRange and IllegalCommand are reported as error values of their own. -/
def recoverError (exprs : Vector ColorExpr Config.palEntries) (s : State) : Option HostError :=
  if s.status.err = false then none
  else if s.status.errcode = 1#4 then some (.invalidFileSize s.errInfo0 s.errInfo1)
  else if s.status.errcode = 2#4 then some (.invalidColorCode (offendingExpression exprs s))
  else if s.status.errcode = 3#4 then some (.componentRange (offendingExpression exprs s))
  else if s.status.errcode = 4#4 then some (.illegalCommand s.errInfo0)
  else none

/-- A word of tag ABORT (30_encoding.md R92, R93). -/
def isAbort (w : Word) : Bool := w.extractLsb' 28 4 == 0xF#4

/-- The words of one command that the host keeps: none when the last is ABORT, for those "are not a
result" (70_reset_and_hazards.md R242). -/
def keptWords (words : List Word) : List Word :=
  match words.getLast? with
  | some w => if isAbort w then [] else words
  | none => []

end Sys2Proof.Machine
end

