-- ==== Sys2Proof/Machine/Grammar.lean ====
section
/-! DEFINITION. The grammars HEX, RGB and PCT of 40_color_resolver.md R103, R106 and R108 as sets of
strings, and the assembler's command lines of 30_encoding.md R87 with their words, both written apart
from the parsers; the statements compare the two. -/

namespace Sys2Proof.Machine
open Sys2Proof

/-- D: a decimal digit (40_color_resolver.md R106). -/
def decimalChars : List Char := ['0', '1', '2', '3', '4', '5', '6', '7', '8', '9']

/-- HD: a hex digit of either case, in the order of its value from each case's list
(40_color_resolver.md R103). -/
def lowerHexChars : List Char := decimalChars ++ ['a', 'b', 'c', 'd', 'e', 'f']
/-- The hex digits with capital letters. -/
def upperHexChars : List Char := decimalChars ++ ['A', 'B', 'C', 'D', 'E', 'F']

/-- `c` is a hex digit of value `d`: it stands at place `d` of a case's list. -/
def HexDigit (c : Char) (d : Nat) : Prop := lowerHexChars[d]? = some c ∨ upperHexChars[d]? = some c

/-- `c` is a decimal digit of value `d`. -/
def DecDigit (c : Char) (d : Nat) : Prop := decimalChars[d]? = some c

/-- `h` is the optional `#`. -/
def OptHash (h : List Char) : Prop := h = [] ∨ h = ['#']

/-- HEX with three digits, of values d0 d1 d2 (40_color_resolver.md R103, R104). -/
def Hex3 (e : ColorExpr) (d0 d1 d2 : Nat) : Prop :=
  ∃ h c0 c1 c2, OptHash h ∧ HexDigit c0 d0 ∧ HexDigit c1 d1 ∧ HexDigit c2 d2 ∧ e = h ++ [c0, c1, c2]

/-- HEX with six digits, of values d0 to d5 (40_color_resolver.md R103, R105). -/
def Hex6 (e : ColorExpr) (d0 d1 d2 d3 d4 d5 : Nat) : Prop :=
  ∃ h c0 c1 c2 c3 c4 c5, OptHash h ∧ HexDigit c0 d0 ∧ HexDigit c1 d1 ∧ HexDigit c2 d2 ∧
    HexDigit c3 d3 ∧ HexDigit c4 d4 ∧ HexDigit c5 d5 ∧ e = h ++ [c0, c1, c2, c3, c4, c5]

/-- C (with `maxLead` 2) or P (with `maxLead` 1): the string `s` is a component of decimal value `n`
(40_color_resolver.md R106, R107, R108). -/
def Component (maxLead : Nat) (s : List Char) (n : Nat) : Prop :=
  (∃ a da, DecDigit a da ∧ s = [a] ∧ n = da) ∨
  (∃ a b da db, DecDigit a da ∧ DecDigit b db ∧ s = [a, b] ∧ n = 10 * da + db) ∨
  (∃ a b c da db dc, DecDigit a da ∧ DecDigit b db ∧ DecDigit c dc ∧ da ≤ maxLead ∧
    s = [a, b, c] ∧ n = 100 * da + 10 * db + dc)

/-- KW: `rgb` in any mix of case (40_color_resolver.md R106). -/
def Keyword (s : List Char) : Prop :=
  ∃ r g b, r ∈ ['r', 'R'] ∧ g ∈ ['g', 'G'] ∧ b ∈ ['b', 'B'] ∧ s = [r, g, b]

/-- SP "," SP (40_color_resolver.md R106). -/
def Comma (s : List Char) : Prop :=
  ∃ i j, s = List.replicate i ' ' ++ ',' :: List.replicate j ' '

/-- RGB with component values n1 n2 n3 (40_color_resolver.md R106, R107). -/
def RgbForm (e : ColorExpr) (n1 n2 n3 : Nat) : Prop :=
  ∃ kw c1 k1 c2 k2 c3, Keyword kw ∧ Component 2 c1 n1 ∧ Comma k1 ∧ Component 2 c2 n2 ∧ Comma k2 ∧
    Component 2 c3 n3 ∧ e = kw ++ ['('] ++ c1 ++ k1 ++ c2 ++ k2 ++ c3 ++ [')']

/-- PCT with percentages p1 p2 p3 (40_color_resolver.md R108). -/
def PctForm (e : ColorExpr) (p1 p2 p3 : Nat) : Prop :=
  ∃ kw c1 k1 c2 k2 c3, Keyword kw ∧ Component 1 c1 p1 ∧ Comma k1 ∧ Component 1 c2 p2 ∧ Comma k2 ∧
    Component 1 c3 p3 ∧
    e = kw ++ ['('] ++ c1 ++ ['%'] ++ k1 ++ c2 ++ ['%'] ++ k2 ++ c3 ++ ['%'] ++ [')']

/-- `e` is in HEX. -/
def InHex (e : ColorExpr) : Prop :=
  (∃ d0 d1 d2, Hex3 e d0 d1 d2) ∨ (∃ d0 d1 d2 d3 d4 d5, Hex6 e d0 d1 d2 d3 d4 d5)
/-- `e` is in RGB. -/
def InRgb (e : ColorExpr) : Prop := ∃ n1 n2 n3, RgbForm e n1 n2 n3
/-- `e` is in PCT. -/
def InPct (e : ColorExpr) : Prop := ∃ p1 p2 p3, PctForm e p1 p2 p3

/-! ## Command lines (30_encoding.md R87) -/

/-- The token spells the name, "case-insensitive" (30_encoding.md R87). -/
def AnyCase (token : List Char) (name : String) : Prop :=
  token.map Char.toLower = name.toList.map Char.toLower

/-- "Numbers are decimal, or hex with `0x`" (30_encoding.md R87): the token's digits, at least one,
have the values `ds`, most significant first. Log 17 for the forms that R87 leaves open. -/
def NumberToken (token : List Char) (n : Nat) : Prop :=
  (∃ ds, ds ≠ [] ∧ List.Forall₂ DecDigit token ds ∧ n = Nat.ofDigits 10 ds.reverse) ∨
  (∃ digits ds, ds ≠ [] ∧ token = '0' :: 'x' :: digits ∧ List.Forall₂ HexDigit digits ds ∧
    n = Nat.ofDigits 16 ds.reverse)

/-- A `<pid>` or a `<preset-name>`, which "stands for its id" (30_encoding.md R87). -/
def PresetToken (token : List Char) (pid : Nat) : Prop :=
  NumberToken token pid ∨ ∃ name, presetNames[pid]? = some name ∧ AnyCase token name

/-- A line's tokens and the word they assemble to, one constructor per line of the syntax table of
30_encoding.md R87, for operands in the ranges of R81 (log 17, also for the case of `INC`). -/
inductive CommandLine : List (List Char) → Word → Prop where
  | preset {m a : List Char} {pid : Nat} : AnyCase m "PRESET" → PresetToken a pid →
      pid < Config.numPresets → CommandLine [m, a] (0x00000001#32 ||| BitVec.ofNat 32 pid <<< 8)
  | decodeSlot {m a : List Char} {slot : Nat} : AnyCase m "DECODE_SLOT" → NumberToken a slot →
      slot < Config.numSlots → CommandLine [m, a] (0x00000002#32 ||| BitVec.ofNat 32 slot <<< 8)
  | decodeSave {m : List Char} : AnyCase m "DECODE_SAVE" → CommandLine [m] 0x00000003#32
  | decodeSaveInc {m a : List Char} : AnyCase m "DECODE_SAVE" → AnyCase a "INC" →
      CommandLine [m, a] (0x00000003#32 ||| 1#32 <<< 8)
  | lookup {m a : List Char} {v : Nat} : AnyCase m "LOOKUP" → NumberToken a v →
      v < Config.palEntries → CommandLine [m, a] (0x00000004#32 ||| BitVec.ofNat 32 v <<< 8)
  | checkActive {m a : List Char} {slot : Nat} : AnyCase m "CHECK_ACTIVE" → NumberToken a slot →
      slot < Config.numSlots → CommandLine [m, a] (0x00000005#32 ||| BitVec.ofNat 32 slot <<< 8)
  | unpack {m a b : List Char} {lo hi : Nat} : AnyCase m "UNPACK" → NumberToken a lo → lo < 256 →
      NumberToken b hi → hi < 256 →
      CommandLine [m, a, b] (0x00000006#32 ||| BitVec.ofNat 32 lo <<< 8 ||| BitVec.ofNat 32 hi <<< 16)

end Sys2Proof.Machine
end

