-- ==== Sys2Proof/Safety.lean ====
section
/-! DEFINITION. What counts as a safe state and a safe host, and the closed forms of the spec that
claims are stated with: the invariant of the block, the host's contract, the reserved words, the
offsets the block reads, and the word lists of 43_save_decoder.md R184. -/

namespace Sys2Proof.Machine
open Sys2Proof

/-! ## The invariant -/

/-- What holds of every state that resets and steps reach: BUSY and `pending` say the same (R32), CMD
holds the pending word (R24), BUSY and DONE exclude each other, ERR goes with DONE and a code 1 to 4,
ERRCODE is 0 without ERR (R25; 60_exceptions.md R200), the save buffer is in canonical form, and
every word ever emitted is in one of the five formats (30_encoding.md R93). -/
structure BlockInv (s : State) : Prop where
  busy_pending : s.status.busy = s.pending.isSome
  pending_cmd : ∀ w, s.pending = some w → s.cmd = w
  busy_not_done : ¬ (s.status.busy = true ∧ s.status.done = true)
  err_done : s.status.err = true → s.status.done = true ∧ s.status.errcode ≠ 0#4
  ok_code : s.status.err = false → s.status.errcode = 0#4
  code_range : s.status.errcode.toNat ≤ 4
  buffer_wf : s.saveBuffer.wf = true
  out_legal : ∀ w ∈ s.out, streamWordLegal w = true

/-! ## The host's contract (10_state.md R23; 70_reset_and_hazards.md R241, R243) -/

/-- A register offset the host may access: in the window and a multiple of 4. -/
def offsetLegal (offset : Nat) : Prop := offset < Config.regWindow ∧ offset % 4 = 0

/-- The host's move keeps its contract in state `s`. -/
def moveLegal (s : State) : HostMove → Prop
  | .write offset _ => offsetLegal offset
  | .read offset => offsetLegal offset
  | .wait => True
  | .storeByte offset _ => offset < Config.saveSize ∧ s.status.busy = false
  | .reset => True

/-- A move that is one legal register access. -/
def isAccess : HostMove → Prop
  | .write offset _ => offsetLegal offset
  | .read offset => offsetLegal offset
  | .wait => False
  | .storeByte _ _ => False
  | .reset => False

/-- The host has no move left or waits, so that a pending command is performed next. -/
def BlockNext (s : State) : Prop := s.hostMoves = [] ∨ ∃ rest, s.hostMoves = .wait :: rest

/-- Duty 2 of 70_reset_and_hazards.md R243: BUF_LEN holds the true length of the host's buffer. -/
def lengthReported (len : Nat) (s : State) : Prop := s.bufLen = reportedLength len

/-! ## Reserved words (30_encoding.md R85) -/

/-- "Opcodes 0x0 and 0x7 to 0xF are reserved. So is any word with a non-zero bit outside its opcode's
named fields, a PID of 15, or a SLOT of 30 or 31." -/
def ReservedWord (w : Word) : Prop :=
  w.toNat % 16 = 0 ∨ 7 ≤ w.toNat % 16 ∨ w.toNat / 16 % 16 ≠ 0 ∨
  (w.toNat % 16 = 1 ∧ (w.toNat / 4096 ≠ 0 ∨ w.toNat / 256 % 16 = 15)) ∨
  ((w.toNat % 16 = 2 ∨ w.toNat % 16 = 5) ∧ (w.toNat / 8192 ≠ 0 ∨ 30 ≤ w.toNat / 256 % 32)) ∨
  (w.toNat % 16 = 3 ∧ w.toNat / 512 ≠ 0) ∨
  (w.toNat % 16 = 4 ∧ w.toNat / 1024 ≠ 0) ∨
  (w.toNat % 16 = 6 ∧ w.toNat / 16777216 ≠ 0)

/-! ## What the block reads of the save buffer (20_memory.md R69) -/

/-- A slot's tile bytes: offsets 0x000 to 0xDFF of its region (42_tile_decoder.md R154). -/
def tileByte (s a : Nat) : Prop :=
  baseOffset s ≤ a ∧ a < baseOffset s + Config.tilesX * Config.tilesY * Config.tileBytes

/-- An offset the block may read: a flag, 0x11B2 to 0x11CF, or a tile byte of a slot. -/
def readByBlock (a : Nat) : Prop :=
  (Config.flagBase ≤ a ∧ a < Config.flagBase + Config.numSlots) ∨
    ∃ s, s < Config.numSlots ∧ tileByte s a

/-! ## The words of DECODE_SAVE (43_save_decoder.md R184) -/

/-- S: the slots to emit, ascending (43_save_decoder.md R181, R184). -/
def selectedSlots (m : Memory) (inc : Bool) : List Nat :=
  (List.range Config.numSlots).filter fun slot => inc || active m slot

/-- The entry a pixel selects is not VALID (43_save_decoder.md R183). -/
def pixelBad (pal : Palette) (m : Memory) (slot : Nat) (p : Nat × Nat) : Prop :=
  (pal.get (palIndex (pixel m slot p.1 p.2))).st ≠ .valid

/-- The PIX word of a pixel (43_save_decoder.md R182). -/
def pixOf (pal : Palette) (m : Memory) (slot : Nat) (p : Nat × Nat) : Word :=
  pixWord (pal.get (palIndex (pixel m slot p.1 p.2))).color

/-- img(s, n) (43_save_decoder.md R184). -/
def imageWords (pal : Palette) (m : Memory) (slot n : Nat) : List Word :=
  hdrWord (BitVec.ofNat 5 slot) (BitVec.ofNat 8 n) :: rowMajor.map (pixOf pal m slot)

/-- img(S[0],1) ++ ... ++ img(S[m-1],m) (43_save_decoder.md R184). -/
def imagesWords (pal : Palette) (m : Memory) (slots : List Nat) : List Word :=
  (slots.zipIdx 1).flatMap fun p => imageWords pal m p.1 p.2

/-- The code of the error that using an entry raises (10_state.md R34; 60_exceptions.md R200). -/
def useCode : EntryStatus → BitVec 4
  | .valid => 0#4
  | .badCode => 2#4
  | .badRange => 3#4

/-- The command reads the save buffer, so it checks BUF_LEN (42_tile_decoder.md R163). -/
def readsBuffer : Instr → Bool
  | .preset _ => false
  | .decodeSlot _ => true
  | .decodeSave _ => true
  | .lookup _ => false
  | .checkActive _ => true
  | .unpack _ _ => false

/-- The command emits stream words (10_state.md R39). -/
def emits : Instr → Bool
  | .preset _ => false
  | .decodeSlot _ => true
  | .decodeSave _ => true
  | .lookup _ => false
  | .checkActive _ => false
  | .unpack _ _ => false

/-- An END or ABORT word (30_encoding.md R91, R92). -/
def closesStream (w : Word) : Bool := w.extractLsb' 28 4 == 0xE#4 || w.extractLsb' 28 4 == 0xF#4

end Sys2Proof.Machine
end

