-- ==== Sys2Proof/Certificates/Slice0/Obligations.lean ====
section
/-! DEFINITION. The statements for the provers, each a numbered rule of spec/ or what follows from
several of them. -/

open Sys2Proof Sys2Proof.Machine

/-! ## Command words -/

/-- 30_encoding.md R81, R83: encoding a legal instruction and decoding the word gives it back. -/
def Obligations.DecodeEncodeRoundTrip : Prop :=
  ∀ i : Instr, i.wellFormed = true → decode (encode i) = .ok i

/-- 30_encoding.md R80, R85: a word that decodes is the encoding of what it decodes to, and its
operands are in range. -/
def Obligations.DecodedWordReencodes : Prop :=
  ∀ (w : Word) (i : Instr), decode w = .ok i → encode i = w ∧ i.wellFormed = true

/-- 30_encoding.md R84: the opcode map. A word selects a row by mask and match and by the row's range
limit; opcodes 0x0 and 0x7 to 0xF are always illegal. -/
def Obligations.DecodeFollowsOpcodeMap : Prop :=
  ∀ w : Word,
    ((∃ p, decode w = .ok (.preset p)) ↔
      w &&& 0xFFFFF0FF#32 = 0x00000001#32 ∧ w.toNat / 256 % 16 ≤ 14) ∧
    ((∃ n, decode w = .ok (.decodeSlot n)) ↔
      w &&& 0xFFFFE0FF#32 = 0x00000002#32 ∧ w.toNat / 256 % 32 ≤ 29) ∧
    ((∃ b, decode w = .ok (.decodeSave b)) ↔ w &&& 0xFFFFFEFF#32 = 0x00000003#32) ∧
    ((∃ v, decode w = .ok (.lookup v)) ↔ w &&& 0xFFFFFCFF#32 = 0x00000004#32) ∧
    ((∃ n, decode w = .ok (.checkActive n)) ↔
      w &&& 0xFFFFE0FF#32 = 0x00000005#32 ∧ w.toNat / 256 % 32 ≤ 29) ∧
    ((∃ l h, decode w = .ok (.unpack l h)) ↔ w &&& 0xFF0000FF#32 = 0x00000006#32) ∧
    (w.toNat % 16 = 0 ∨ 7 ≤ w.toNat % 16 → ∃ e, decode w = .error e)

/-- 30_encoding.md R82: every operand is its unsigned field, taken as is. -/
def Obligations.OperandsAreUnsignedFields : Prop :=
  ∀ w : Word,
    (∀ p, decode w = .ok (.preset p) → p.toNat = w.toNat / 256 % 16) ∧
    (∀ n, decode w = .ok (.decodeSlot n) → n.toNat = w.toNat / 256 % 32) ∧
    (∀ b, decode w = .ok (.decodeSave b) → b.toNat = w.toNat / 256 % 2) ∧
    (∀ v, decode w = .ok (.lookup v) → v.toNat = w.toNat / 256 % 4) ∧
    (∀ n, decode w = .ok (.checkActive n) → n.toNat = w.toNat / 256 % 32) ∧
    (∀ l h, decode w = .ok (.unpack l h) →
      l.toNat = w.toNat / 256 % 256 ∧ h.toNat = w.toNat / 65536 % 256)

/-- 95_test_vectors.md T70: words written out from the spec's encodings. -/
def Obligations.SampleWordsDecode : Prop :=
  decode 0x00000E01#32 = .ok (.preset 14#4) ∧ decode 0x00001D02#32 = .ok (.decodeSlot 29#5) ∧
  decode 0x00000103#32 = .ok (.decodeSave true) ∧ decode 0x00000304#32 = .ok (.lookup 3#2) ∧
  decode 0x00000305#32 = .ok (.checkActive 3#5) ∧
  decode 0x007E3C06#32 = .ok (.unpack 0x3C#8 0x7E#8)

/-- 30_encoding.md R85: exactly the reserved words are illegal, and performing one raises
IllegalCommand(w, 0) and changes nothing else: no palette entry, stream word, save-buffer byte or
RESULT (60_exceptions.md R204, R210). -/
def Obligations.ReservedWordsRaiseIllegalCommand : Prop :=
  (∀ w : Word, ReservedWord w ↔ ∃ e, decode w = .error e) ∧
  ∀ (s : State) (w : Word), BlockNext s → s.pending = some w → ReservedWord w →
    step s = .next { s with
      errInfo0 := w, errInfo1 := 0#32, pending := none,
      status := ⟨false, true, true, s.status.ovr, 4#4⟩ }

/-! ## Steps -/

/-- 10_state.md R32: the perform step of a pending word that decodes is that command's execution. -/
def Obligations.StepPerformsDecodedCommand : Prop :=
  ∀ (s : State) (w : Word) (i : Instr), BlockNext s → s.pending = some w → decode w = .ok i →
    step s = exec i s

/-- The model's `withFetchWord` (log 5): the word placed is the one the next step performs, and what
else it writes is what an accepted CMD write writes (10_state.md R24), with a WAIT before host moves. -/
def Obligations.PlacedCommandRunsNext : Prop :=
  ∀ (s : State) (w : Word) (i : Instr), decode w = .ok i →
    step (s.withFetchWord 32 w.toNat) = exec i (s.withFetchWord 32 w.toNat) ∧
    s.withFetchWord 32 w.toNat = { s with
      cmd := w, pending := some w, status := ⟨true, false, false, false, 0#4⟩,
      hostMoves := (s.withFetchWord 32 w.toNat).hostMoves } ∧
    ((s.withFetchWord 32 w.toNat).hostMoves = s.hostMoves ∨
      (s.withFetchWord 32 w.toNat).hostMoves = .wait :: s.hostMoves)

/-- 70_reset_and_hazards.md R230 ("idle, waiting for a CMD write") and the model's log 6: with no
command pending and no host move the machine stays as it is; 30_encoding.md R87: WAIT reads STATUS
and ends when BUSY reads 0. -/
def Obligations.IdleAndWait : Prop :=
  (∀ s : State, s.hostMoves = [] → s.pending = none → step s = .next s) ∧
  (∀ (s : State) (rest : List HostMove), s.hostMoves = .wait :: rest → s.pending = none →
    step s = .next { s with
      readData := s.status.word, hostMoves := if s.status.busy then s.hostMoves else rest })

/-- When a step stops (logs 10, 11, 12): exactly when the host's next move breaks its contract. No
command of the block stops. -/
def Obligations.StepStopsOnlyOnHostBreach : Prop :=
  ∀ s : State,
    (∃ t, step s = .next t) ↔ ∀ move rest, s.hostMoves = move :: rest → moveLegal s move

/-! ## The host's register accesses -/

/-- 10_state.md R24: a CMD write issues the command, or is dropped and sets OVR while BUSY. -/
def Obligations.CmdWriteIssuesOrDrops : Prop :=
  ∀ (s : State) (w : Word) (rest : List HostMove), s.hostMoves = .write 0x00 w :: rest →
    (s.status.busy = true →
      step s = .next { s with status := { s.status with ovr := true }, hostMoves := rest }) ∧
    (s.status.busy = false →
      step s = .next { s with
        cmd := w, pending := some w, status := ⟨true, false, false, false, 0#4⟩, hostMoves := rest }) ∧
    s.readRegister 0x00 = s.cmd

/-- 10_state.md R28: the write rule of BUF_LEN. -/
def Obligations.BufLenWriteStoresOrDrops : Prop :=
  ∀ (s : State) (v : Word) (rest : List HostMove), s.hostMoves = .write 0x08 v :: rest →
    (s.status.busy = true →
      step s = .next { s with status := { s.status with ovr := true }, hostMoves := rest }) ∧
    (s.status.busy = false → step s = .next { s with bufLen := v, hostMoves := rest })

/-- 10_state.md R35: the write rule of PAL`k`. `st` = 3 is stored as 1, bits [31:26] are ignored, a
read returns the stored entry with bits [31:26] = 0, and no other entry changes. -/
def Obligations.PalWriteIsWarl : Prop :=
  ∀ (s : State) (k : Fin 4) (v : Word) (rest : List HostMove),
    s.hostMoves = .write (0x20 + 4 * k.val) v :: rest →
    (s.status.busy = true →
      step s = .next { s with status := { s.status with ovr := true }, hostMoves := rest }) ∧
    (s.status.busy = false →
      ∃ pal : Palette, step s = .next { s with pal := pal, hostMoves := rest } ∧
        (∀ j : Fin 4, j ≠ k → pal.get j = s.pal.get j) ∧
        (pal.get k).color.r.toNat = v.toNat % 256 ∧
        (pal.get k).color.g.toNat = v.toNat / 256 % 256 ∧
        (pal.get k).color.b.toNat = v.toNat / 65536 % 256 ∧
        (pal.get k).st.code.toNat =
          (if v.toNat / 16777216 % 4 = 3 then 1 else v.toNat / 16777216 % 4) ∧
        (palWord (pal.get k)).toNat =
          v.toNat % 16777216 +
            (if v.toNat / 16777216 % 4 = 3 then 1 else v.toNat / 16777216 % 4) * 16777216)

/-- 10_state.md R23: a write at a reserved or read-only offset is ignored and sets no OVR; a read of a
reserved offset returns 0; a read has no side effect (it fills the host's `readData`); an offset that
is no multiple of 4 is no move of the host's (log 10). -/
def Obligations.ReservedReadOnlyAndMisalignedAccesses : Prop :=
  (∀ (s : State) (off : Nat) (v : Word) (rest : List HostMove), offsetLegal off →
    (off = 0x04 ∨ off = 0x0C ∨ off = 0x10 ∨ off = 0x14 ∨ off = 0x18 ∨ off = 0x1C ∨ 0x30 ≤ off) →
    s.hostMoves = .write off v :: rest → step s = .next { s with hostMoves := rest }) ∧
  (∀ (s : State) (off : Nat), off = 0x18 ∨ off = 0x1C ∨ 0x30 ≤ off → s.readRegister off = 0#32) ∧
  (∀ (s : State) (off : Nat) (rest : List HostMove), offsetLegal off → s.hostMoves = .read off :: rest →
    step s = .next { s with readData := s.readRegister off, hostMoves := rest }) ∧
  (∀ (s : State) (off : Nat) (v : Word) (rest : List HostMove), off < 0x1000 → off % 4 ≠ 0 →
    (s.hostMoves = .read off :: rest ∨ s.hostMoves = .write off v :: rest) →
    step s = .refused (.misalignedRegisterAccess off))

/-- 10_state.md R25: the fields of STATUS as the host reads them; bits [31:8] read 0. -/
def Obligations.StatusReadsItsFields : Prop :=
  ∀ s : State,
    (s.readRegister 0x04).toNat =
      s.status.busy.toNat + 2 * s.status.done.toNat + 4 * s.status.err.toNat + 8 * s.status.ovr.toNat
        + 16 * s.status.errcode.toNat

/-- 10_state.md R22: the register map's reads, STATUS by the fields of R25, and its reset column. The
reset value of PAL0 to PAL3 comes from the open preset ROM (log 2). -/
def Obligations.RegisterMapReads : Prop :=
  (∀ s : State, s.readRegister 0x00 = s.cmd ∧ s.readRegister 0x08 = s.bufLen ∧
    (s.readRegister 0x04).toNat =
      s.status.busy.toNat + 2 * s.status.done.toNat + 4 * s.status.err.toNat + 8 * s.status.ovr.toNat
        + 16 * s.status.errcode.toNat ∧
    s.readRegister 0x0C = s.result ∧ s.readRegister 0x10 = s.errInfo0 ∧
    s.readRegister 0x14 = s.errInfo1 ∧
    ∀ k : Fin 4, s.readRegister (0x20 + 4 * k.val) = palWord (s.pal.get k)) ∧
  (∀ off, off < 0x1000 → off % 4 = 0 → (off < 0x20 ∨ 0x30 ≤ off) → State.reset.readRegister off = 0#32) ∧
  (∀ k : Fin 4,
    State.reset.readRegister (0x20 + 4 * k.val) = palWord ⟨Config.presetRom 0 k, .valid⟩)

/-- 70_reset_and_hazards.md R240: a read after a write returns the written value, or its WARL form. -/
def Obligations.ReadAfterWrite : Prop :=
  ∀ (s : State) (r : Reg) (v : Word) (rest : List HostMove), s.status.busy = false →
    s.hostMoves = .write (regOffset r) v :: .read (regOffset r) :: rest →
    ∃ t, Host.Core.run core 2 s = .next t ∧ t.hostMoves = rest ∧
      (r = .cmd ∨ r = .bufLen → t.readData = v) ∧
      (∀ k, r = .pal k → t.readData = palWord (entryOfWord v))

/-- 70_reset_and_hazards.md R230, R231: asserting reset gives every item its reset value at once, drops
a pending command, and leaves the save buffer and the ROM untouched. -/
def Obligations.ResetInputResetsBlock : Prop :=
  ∀ (s : State) (rest : List HostMove), s.hostMoves = .reset :: rest →
    ∃ t, step s = .next t ∧ t.cmd = 0#32 ∧ t.status = ⟨false, false, false, false, 0#4⟩ ∧
      t.bufLen = 0#32 ∧ t.result = 0#32 ∧ t.errInfo0 = 0#32 ∧ t.errInfo1 = 0#32 ∧
      (∀ k, t.pal.get k = ⟨(s.presetRom.get 0).get k, .valid⟩) ∧ t.pending = none ∧ t.out = [] ∧
      t.presetRom = s.presetRom ∧ t.saveBuffer = s.saveBuffer

/-- 20_memory.md R60, R63: the host's byte store writes that byte and nothing else; while BUSY it is no
move of the host's (log 11), and the save buffer has no offset from SAVE_SIZE on (log 12). -/
def Obligations.HostStoresOneByte : Prop :=
  ∀ (s : State) (a : Nat) (b : Byte) (rest : List HostMove), s.hostMoves = .storeByte a b :: rest →
    (a < 131072 → s.status.busy = false → s.saveBuffer.wf = true →
      ∃ m : Memory, step s = .next { s with saveBuffer := m, hostMoves := rest } ∧ m.wf = true ∧
        m.read a = b ∧ ∀ a', a' ≠ a → m.read a' = s.saveBuffer.read a') ∧
    (a < 131072 → s.status.busy = true → step s = .refused (.bufferWriteWhileBusy a)) ∧
    (131072 ≤ a → step s = .fault (.outsideSaveBuffer a))

/-- 41_palette_mapper.md R132: the four writes of LOADPAL load the four expressions' entries, and none
raises an error, whatever the expressions. -/
def Obligations.LoadPalLoadsFourExpressions : Prop :=
  ∀ (s : State) (e0 e1 e2 e3 : ColorExpr) (rest : List HostMove), s.status.busy = false →
    s.hostMoves = loadPal e0 e1 e2 e3 ++ rest →
    ∃ pal : Palette, Host.Core.run core 4 s = .next { s with pal := pal, hostMoves := rest } ∧
      palWord (pal.get 0) = entryWord e0 ∧ palWord (pal.get 1) = entryWord e1 ∧
      palWord (pal.get 2) = entryWord e2 ∧ palWord (pal.get 3) = entryWord e3

/-! ## Palette commands -/

/-- 41_palette_mapper.md R136: PRESET with a PID of 0 to 14 loads that preset's four colors, all VALID,
with RESULT = pid; nothing else changes but the end of the command. -/
def Obligations.PresetLoadsPalette : Prop :=
  ∀ (s : State) (pid : BitVec 4) (h : pid.toNat < 15),
    ∃ pal : Palette,
      exec (.preset pid) s = .next { s with
        pal := pal, result := pid.setWidth 32, pending := none,
        status := ⟨false, true, false, s.status.ovr, 0#4⟩ } ∧
      ∀ k, pal.get k = ⟨(s.presetRom.get ⟨pid.toNat, h⟩).get k, .valid⟩

/-- 41_palette_mapper.md R137, R138: LOOKUP gives the packed color of a VALID entry, or raises the
entry's error with the entry index and no position. -/
def Obligations.LookupMapsOneValue : Prop :=
  ∀ (s : State) (v : Pixel) (e : PalEntry), s.pal.get (palIndex v) = e →
    (e.st = .valid →
      exec (.lookup v) s = .next { s with
        result := 0#8 ++ e.color.b ++ e.color.g ++ e.color.r, pending := none,
        status := ⟨false, true, false, s.status.ovr, 0#4⟩ }) ∧
    (e.st ≠ .valid →
      exec (.lookup v) s = .next { s with
        errInfo0 := v.setWidth 32, errInfo1 := 0x80000000#32, pending := none,
        status := ⟨false, true, true, s.status.ovr, if e.st = .badCode then 2#4 else 3#4⟩ })

/-- 41_palette_mapper.md R130: resolving each expression when it is loaded gives, at every use, what
resolving it at that use would give. -/
def Obligations.LoadTimeResolutionEqualsLazyResolution : Prop :=
  ∀ (exprs : Vector ColorExpr 4) (pal : Palette),
    (∀ k, pal.get k = entryOfWord (entryWord (exprs.get k))) →
    ∀ v, mapValue pal v = lazyMap exprs v

/-! ## The tile decoder -/

/-- 42_tile_decoder.md R150: lane `i` is bit 7-i of the low plane plus twice bit 7-i of the high plane. -/
def Obligations.UnpackLanesFromPlanes : Prop :=
  ∀ (lo hi : Byte) (i : Fin 8),
    ((unpack lo hi).get i).toNat = (lo.getLsbD (7 - i.val)).toNat + 2 * (hi.getLsbD (7 - i.val)).toNat

/-- 42_tile_decoder.md R151: the corner cases, and the unpacker is a bijection between pairs of bytes
and 8-tuples of 2-bit values. -/
def Obligations.UnpackIsBijection : Prop :=
  (∀ lo hi lo' hi', unpack lo hi = unpack lo' hi' → lo = lo' ∧ hi = hi') ∧
  (∀ lanes : Vector Pixel 8, ∃ lo hi, unpack lo hi = lanes) ∧
  unpack 0x00#8 0x00#8 = Vector.replicate 8 0#2 ∧ unpack 0xFF#8 0xFF#8 = Vector.replicate 8 3#2 ∧
  unpack 0xFF#8 0x00#8 = Vector.replicate 8 1#2 ∧ unpack 0x00#8 0xFF#8 = Vector.replicate 8 2#2 ∧
  unpack 0x80#8 0x01#8 = #v[1#2, 0#2, 0#2, 0#2, 0#2, 0#2, 0#2, 2#2] ∧
  ∀ (b : Byte) (i : Fin 8), (unpack b b).get i = 0#2 ∨ (unpack b b).get i = 3#2

/-- 42_tile_decoder.md R152: the address generator's sum equals the 17-bit concatenation
{s+2, y div 8, x, y mod 8, 0}, the planes are the bytes there and after it, and every offset lies in
0x02000..0x1FDFF. -/
def Obligations.RowOffsetIsConcatenation : Prop :=
  ∀ s y x : Nat, s < 30 → y < 112 → x < 16 →
    rowOffset s y x = 0x2000 + s * 0x1000 + 16 * (y / 8 * 16 + x) + 2 * (y % 8) ∧
    rowOffset s y x =
      (BitVec.ofNat 5 (s + 2) ++ BitVec.ofNat 4 (y / 8) ++ BitVec.ofNat 4 x ++ BitVec.ofNat 3 (y % 8)
        ++ 0#1).toNat ∧
    0x02000 ≤ rowOffset s y x ∧ rowOffset s y x + 1 ≤ 0x1FDFF ∧
    ∀ m : Memory, planeLow m s y x = m.read (rowOffset s y x) ∧
      planeHigh m s y x = m.read (rowOffset s y x + 1)

/-- 42_tile_decoder.md R153: the pixel at row y and column c is lane c mod 8 of the byte pair of tile
column c div 8. -/
def Obligations.PixelFromBytePair : Prop :=
  ∀ (m : Memory) (s y c : Nat), s < 30 → y < 112 → c < 128 →
    (pixel m s y c).toNat =
      ((m.read (0x2000 + s * 0x1000 + 16 * (y / 8 * 16 + c / 8) + 2 * (y % 8))).getLsbD
        (7 - c % 8)).toNat +
      2 * ((m.read (0x2000 + s * 0x1000 + 16 * (y / 8 * 16 + c / 8) + 2 * (y % 8) + 1)).getLsbD
        (7 - c % 8)).toNat

/-- 42_tile_decoder.md R160, R161: DECODE_SLOT appends HDR(s,1), the 14336 PV words in row-major order
and END(1), with RESULT 1, whatever the flag and the palette; with another BUF_LEN it raises
InvalidFileSize with ABORT(1) alone. -/
def Obligations.DecodeSlotStream : Prop :=
  ∀ (s : State) (slot : BitVec 5), slot.toNat < 30 →
    (s.bufLen = 131072#32 →
      ∃ words : List Word,
        exec (.decodeSlot slot) s = .next { s with
          out := s.out ++ words, result := 1#32, pending := none,
          status := ⟨false, true, false, s.status.ovr, 0#4⟩ } ∧
        words.length = 14338 ∧ words[0]? = some (0x10000000#32 ||| slot.setWidth 32 <<< 8 ||| 1#32) ∧
        (∀ y c, y < 112 → c < 128 → words[1 + 128 * y + c]? =
          some (0x30000000#32 ||| (pixel s.saveBuffer slot.toNat y c).setWidth 32)) ∧
        words[14337]? = some 0xE0000001#32) ∧
    (s.bufLen ≠ 131072#32 →
      exec (.decodeSlot slot) s = .next { s with
        out := s.out ++ [0xF0000001#32], errInfo0 := 131072#32, errInfo1 := s.bufLen, pending := none,
        status := ⟨false, true, true, s.status.ovr, 1#4⟩ })

/-- 42_tile_decoder.md R154, R157: what DECODE_SLOT emits depends only on the slot's 3584 tile bytes. -/
def Obligations.DecodeSlotDependsOnItsTiles : Prop :=
  ∀ (s : State) (m : Memory) (slot : BitVec 5), slot.toNat < 30 →
    (∀ a, tileByte slot.toNat a → m.read a = s.saveBuffer.read a) →
    ∃ t, exec (.decodeSlot slot) s = .next t ∧
      exec (.decodeSlot slot) { s with saveBuffer := m } = .next { t with saveBuffer := m }

/-- 42_tile_decoder.md R159: an all-zero region decodes to 0 everywhere, an all-0xFF region to 3. -/
def Obligations.SolidRegionsDecode : Prop :=
  ∀ (m : Memory) (s : Nat), s < 30 →
    ((∀ a, baseOffset s ≤ a → a < baseOffset s + 0x1000 → m.read a = 0x00#8) →
      ∀ y c, y < 112 → c < 128 → pixel m s y c = 0#2) ∧
    ((∀ a, baseOffset s ≤ a → a < baseOffset s + 0x1000 → m.read a = 0xFF#8) →
      ∀ y c, y < 112 → c < 128 → pixel m s y c = 3#2)

/-- 42_tile_decoder.md R162, 10_state.md R27: CHECK_ACTIVE answers 0 exactly when the slot's flag byte
is 0xFF, that is -1 as a signed byte; with another BUF_LEN it raises InvalidFileSize and emits
nothing. -/
def Obligations.CheckActiveReadsFlag : Prop :=
  ∀ (s : State) (slot : BitVec 5), slot.toNat < 30 →
    (s.bufLen = 131072#32 →
      exec (.checkActive slot) s = .next { s with
        result := if (s.saveBuffer.read (0x11B2 + slot.toNat)).toInt = -1 then 0#32 else 1#32,
        pending := none, status := ⟨false, true, false, s.status.ovr, 0#4⟩ }) ∧
    (s.bufLen ≠ 131072#32 →
      exec (.checkActive slot) s = .next { s with
        errInfo0 := 131072#32, errInfo1 := s.bufLen, pending := none,
        status := ⟨false, true, true, s.status.ovr, 1#4⟩ })

/-- 42_tile_decoder.md R164: UNPACK leaves lane i in RESULT bits [2i+1:2i] and 0 in [31:16], whatever
BUF_LEN. -/
def Obligations.UnpackPacksLanes : Prop :=
  ∀ (s : State) (lo hi : Byte), ∃ r : Word,
    exec (.unpack lo hi) s = .next { s with
      result := r, pending := none, status := ⟨false, true, false, s.status.ovr, 0#4⟩ } ∧
    (∀ i : Fin 8, r.extractLsb' (2 * i.val) 2 = (unpack lo hi).get i) ∧ r.extractLsb' 16 16 = 0#16

/-- Operands that `decode` never gives (30_encoding.md R85; the model's log 9): a command with PID 15 or
SLOT 30 or 31 raises IllegalCommand with its word, before any effect (60_exceptions.md R204). -/
def Obligations.OutOfRangeOperandsAreIllegal : Prop :=
  ∀ (s : State) (i : Instr), i.wellFormed = false →
    exec i s = .next { s with
      errInfo0 := encode i, errInfo1 := 0#32, pending := none,
      status := ⟨false, true, true, s.status.ovr, 4#4⟩ }

/-! ## DECODE_SAVE -/

/-- 43_save_decoder.md R184 (and R180 to R182): when no pixel of a selected slot selects a BAD entry,
DECODE_SAVE appends exactly the images of the selected slots, numbered from 1, and END(m), with
RESULT m. -/
def Obligations.DecodeSaveSuccessStream : Prop :=
  ∀ (s : State) (inc : Bool), s.bufLen = 131072#32 →
    (∀ slot ∈ selectedSlots s.saveBuffer inc, ∀ p ∈ rowMajor, ¬ pixelBad s.pal s.saveBuffer slot p) →
    exec (.decodeSave inc) s = .next { s with
      out := s.out ++ imagesWords s.pal s.saveBuffer (selectedSlots s.saveBuffer inc)
        ++ [endWord (BitVec.ofNat 8 (selectedSlots s.saveBuffer inc).length)],
      result := BitVec.ofNat 32 (selectedSlots s.saveBuffer inc).length, pending := none,
      status := ⟨false, true, false, s.status.ovr, 0#4⟩ }

/-- 43_save_decoder.md R183, R184: the first failing pixel, in slot order and then row-major order,
stops DECODE_SAVE: the images before it, its own header and the pixels before it, then ABORT; ERR_INFO0
and ERR_INFO1 name the entry and the position, and RESULT keeps its value. -/
def Obligations.DecodeSaveStopsAtFirstBadPixel : Prop :=
  ∀ (s : State) (inc : Bool) (before after : List Nat) (slot : Nat) (ps qs : List (Nat × Nat))
    (y c : Nat), s.bufLen = 131072#32 →
    selectedSlots s.saveBuffer inc = before ++ slot :: after → rowMajor = ps ++ (y, c) :: qs →
    (∀ b ∈ before, ∀ p ∈ rowMajor, ¬ pixelBad s.pal s.saveBuffer b p) →
    (∀ p ∈ ps, ¬ pixelBad s.pal s.saveBuffer slot p) → pixelBad s.pal s.saveBuffer slot (y, c) →
    exec (.decodeSave inc) s = .next { s with
      out := s.out ++ imagesWords s.pal s.saveBuffer before
        ++ hdrWord (BitVec.ofNat 5 slot) (BitVec.ofNat 8 (before.length + 1))
        :: ps.map (pixOf s.pal s.saveBuffer slot)
        ++ [abortWord (useCode (s.pal.get (palIndex (pixel s.saveBuffer slot y c))).st)],
      errInfo0 := (pixel s.saveBuffer slot y c).setWidth 32,
      errInfo1 := BitVec.ofNat 32 (slot * 65536 + y * 256 + c), pending := none,
      status := ⟨false, true, true, s.status.ovr,
        useCode (s.pal.get (palIndex (pixel s.saveBuffer slot y c))).st⟩ }

/-- 43_save_decoder.md R181, R185: on success the images, told by their HDR words, are those of exactly
the slots whose flag byte is not 0xFF, ascending, numbered 1, 2, 3 without a gap; with INC = 1 they
are 30. The command's words number 14337 an image and one more. -/
def Obligations.DecodeSaveImagesAreSelectedSlots : Prop :=
  ∀ (s t : State) (inc : Bool), s.bufLen = 131072#32 → exec (.decodeSave inc) s = .next t →
    t.status.err = false →
    ∃ (words : List Word) (slots : List Nat), t.out = s.out ++ words ∧
      (∀ slot, slot ∈ slots ↔
        slot < 30 ∧ (inc = true ∨ s.saveBuffer.read (0x11B2 + slot) ≠ 0xFF#8)) ∧
      slots.Pairwise (· < ·) ∧ (inc = true → slots.length = 30) ∧
      words.filter (fun w => w.extractLsb' 28 4 == 0x1#4) =
        (slots.zipIdx 1).map (fun p => hdrWord (BitVec.ofNat 5 p.1) (BitVec.ofNat 8 p.2)) ∧
      words.length = slots.length * 14337 + 1 ∧ t.result.toNat = slots.length

/-- 43_save_decoder.md R187, the end-to-end scenario: slot 0 active and of one value v everywhere, every
other slot deleted, entry v VALID: one image of 14336 equal PIX words. -/
def Obligations.SolidSlotEndToEnd : Prop :=
  ∀ (s : State) (v : Pixel), s.bufLen = 131072#32 → s.saveBuffer.read 0x11B2 ≠ 0xFF#8 →
    (∀ slot, 0 < slot → slot < 30 → s.saveBuffer.read (0x11B2 + slot) = 0xFF#8) →
    (∀ y c, y < 112 → c < 128 → pixel s.saveBuffer 0 y c = v) →
    (s.pal.get (palIndex v)).st = .valid →
    exec (.decodeSave false) s = .next { s with
      out := s.out ++ 0x10000001#32 ::
        List.replicate 14336 (0x20000000#32 ||| rgbWord (s.pal.get (palIndex v)).color)
        ++ [0xE0000001#32],
      result := 1#32, pending := none, status := ⟨false, true, false, s.status.ovr, 0#4⟩ }

/-- 95_test_vectors.md W11, 10_state.md R20: repeating DECODE_SAVE on the same buffer appends the same
words and gives the same outcome. -/
def Obligations.DecodeSaveIsRepeatable : Prop :=
  ∀ (s : State) (inc : Bool), ∃ t u words, exec (.decodeSave inc) s = .next t ∧
    exec (.decodeSave inc) t = .next u ∧ t.out = s.out ++ words ∧ u.out = t.out ++ words ∧
    u = { t with out := t.out ++ words }

/-- 20_memory.md R64, R69, 42_tile_decoder.md R157: no command depends on a byte outside the flags and
the slots' tile bytes. -/
def Obligations.UnreadBytesHaveNoEffect : Prop :=
  ∀ (i : Instr) (s : State) (m : Memory), (∀ a, readByBlock a → m.read a = s.saveBuffer.read a) →
    ∃ t, exec i s = .next t ∧ exec i { s with saveBuffer := m } = .next { t with saveBuffer := m }

/-- 60_exceptions.md R201, R206: with BUF_LEN other than 131072, be it 0, 131071 or 131073, each command
that reads the buffer raises InvalidFileSize(131072, BUF_LEN), whatever the buffer holds: ABORT(1) for
DECODE_SLOT and DECODE_SAVE, nothing for CHECK_ACTIVE. 10_state.md R28, 30_encoding.md R87: SETLEN of a
length, of 2^32 and above too, leaves BUF_LEN at min(length, 0xFFFFFFFF), and every length but 131072
fails the check, with that value as the actual length. -/
def Obligations.BufferCommandsCheckLength : Prop :=
  (∀ (s : State) (i : Instr), i.wellFormed = true → readsBuffer i = true → s.bufLen ≠ 131072#32 →
    exec i s = .next { s with
      out := s.out ++ (if emits i then [0xF0000001#32] else []),
      errInfo0 := 131072#32, errInfo1 := s.bufLen, pending := none,
      status := ⟨false, true, true, s.status.ovr, 1#4⟩ }) ∧
  ∀ (s : State) (len : Nat) (rest : List HostMove), s.status.busy = false →
    s.hostMoves = setLen len ++ rest →
    ∃ t, step s = .next t ∧ t = { s with bufLen := t.bufLen, hostMoves := rest } ∧
      t.bufLen.toNat = min len 0xFFFFFFFF ∧ (t.bufLen = 131072#32 ↔ len = 131072) ∧
      ∀ i : Instr, i.wellFormed = true → readsBuffer i = true → len ≠ 131072 →
        ∃ u, exec i t = .next u ∧ u.status = ⟨false, true, true, s.status.ovr, 1#4⟩ ∧
          u.errInfo0 = 131072#32 ∧ u.errInfo1.toNat = min len 0xFFFFFFFF ∧
          u.out = s.out ++ (if emits i then [0xF0000001#32] else [])

/-! ## The end of every command -/

/-- 10_state.md R32, R37: every command ends in one step with BUSY 0, DONE 1, OVR as it was and nothing
pending; ERRCODE and ERR_INFO move only with an error. Its frame: CMD, BUF_LEN, the ROM, the host's
fields and every byte of the save buffer are unchanged, words are only appended to OUT, and every
command but PRESET leaves the palette. -/
def Obligations.EveryCommandEndsWithItsFrame : Prop :=
  ∀ (i : Instr) (s : State), ∃ (t : State) (words : List Word), exec i s = .next t ∧
    t.status.busy = false ∧ t.status.done = true ∧ t.status.ovr = s.status.ovr ∧ t.pending = none ∧
    (t.status.err = false →
      t.status.errcode = 0#4 ∧ t.errInfo0 = s.errInfo0 ∧ t.errInfo1 = s.errInfo1) ∧
    t.cmd = s.cmd ∧ t.bufLen = s.bufLen ∧ t.presetRom = s.presetRom ∧ t.hostMoves = s.hostMoves ∧
    t.readData = s.readData ∧ (∀ a, t.saveBuffer.read a = s.saveBuffer.read a) ∧
    t.out = s.out ++ words ∧ ((∀ p, i ≠ .preset p) → t.pal = s.pal)

/-- 60_exceptions.md R209: errors are precise. A command that ends in an error changes only STATUS,
ERR_INFO0 and ERR_INFO1 (and `pending`), and for DECODE_SLOT and DECODE_SAVE the words appended to
OUT up to and including ABORT. -/
def Obligations.ErrorsArePrecise : Prop :=
  ∀ (s t : State) (w : Word), BlockNext s → s.pending = some w → step s = .next t →
    t.status.err = true →
    ∃ words : List Word,
      t = { s with status := t.status, errInfo0 := t.errInfo0, errInfo1 := t.errInfo1,
                   pending := none, out := s.out ++ words } ∧
      ((∀ i, decode w = .ok i → emits i = false) → words = []) ∧
      (∀ i, decode w = .ok i → emits i = true →
        ∃ front, words = front ++ [abortWord t.status.errcode])

/-- 10_state.md R39: only DECODE_SLOT and DECODE_SAVE emit words, and an emitting command's last word,
and no other, is END on success or ABORT on error; the model's commands with operands that `decode`
never gives are left out (log 9). -/
def Obligations.OnlyDecodeCommandsEmit : Prop :=
  ∀ (i : Instr) (s : State), i.wellFormed = true →
    ∃ t words, exec i s = .next t ∧ t.out = s.out ++ words ∧
      (emits i = false → words = []) ∧
      (emits i = true → ∃ front last, words = front ++ [last] ∧
        last.extractLsb' 28 4 = (if t.status.err then 0xF#4 else 0xE#4) ∧
        ∀ w ∈ front, closesStream w = false)

/-- 60_exceptions.md R208: the one error reported is IllegalCommand for an illegal word, else
InvalidFileSize for a command that reads the buffer with another BUF_LEN, else a palette error of
LOOKUP or DECODE_SAVE or none. -/
def Obligations.ErrorPriority : Prop :=
  ∀ (s : State) (w : Word), BlockNext s → s.pending = some w →
    ∃ t, step s = .next t ∧
      (∀ e, decode w = .error e → t.status.errcode = 4#4) ∧
      (∀ i, decode w = .ok i → readsBuffer i = true → s.bufLen ≠ 131072#32 → t.status.errcode = 1#4) ∧
      (∀ i, decode w = .ok i → readsBuffer i = false ∨ s.bufLen = 131072#32 →
        t.status.errcode = 0#4 ∨ t.status.errcode = 2#4 ∨ t.status.errcode = 3#4) ∧
      (∀ i, decode w = .ok i → readsBuffer i = false ∨ s.bufLen = 131072#32 →
        (∀ v, i ≠ .lookup v) → (∀ b, i ≠ .decodeSave b) → t.status.err = false)

/-- 60_exceptions.md R211: from STATUS, ERR_INFO0 and ERR_INFO1 and the expressions loaded in the
palette the host recovers the error of every command that has one: the offending expression of a
LOOKUP of a BAD_CODE or a BAD_RANGE entry, that of a pixel of DECODE_SAVE, and the two lengths of
InvalidFileSize. That ComponentRange is reported as a value of its own is the model's choice (log 24). -/
def Obligations.HostRecoversOffendingExpression : Prop :=
  ∀ (s : State) (exprs : Vector ColorExpr Config.palEntries),
    (∀ k, s.pal.get k = entryOfWord (entryWord (exprs.get k))) →
    (∀ (v : Pixel) (err : ResolveError), resolve (exprs.get (palIndex v)) = .error err →
      err = .invalidColorCode (exprs.get (palIndex v)) ∧
      ∃ t, exec (.lookup v) s = .next t ∧
        recoverError exprs t = some (.invalidColorCode (exprs.get (palIndex v)))) ∧
    (∀ (v : Pixel) (r g b : Nat), resolve (exprs.get (palIndex v)) = .ok (r, g, b) →
      255 < max r (max g b) →
      ∃ t, exec (.lookup v) s = .next t ∧
        recoverError exprs t = some (.componentRange (exprs.get (palIndex v)))) ∧
    (∀ (inc : Bool) (t : State), s.bufLen = 131072#32 → exec (.decodeSave inc) s = .next t →
      t.status.err = true →
      ∃ slot ∈ selectedSlots s.saveBuffer inc, ∃ p ∈ rowMajor, ∃ e,
        e = exprs.get (palIndex (pixel s.saveBuffer slot p.1 p.2)) ∧
        ((resolve e = .error (.invalidColorCode e) ∧
            recoverError exprs t = some (.invalidColorCode e)) ∨
          ∃ r g b, resolve e = .ok (r, g, b) ∧ 255 < max r (max g b) ∧
            recoverError exprs t = some (.componentRange e))) ∧
    (∀ i : Instr, i.wellFormed = true → readsBuffer i = true → s.bufLen ≠ 131072#32 →
      ∃ t, exec i s = .next t ∧
        recoverError exprs t = some (.invalidFileSize 131072#32 s.bufLen))

/-! ## Invariants and whole-machine rules -/

/-- Every step keeps `BlockInv` (10_state.md R25, R32; 30_encoding.md R93; 60_exceptions.md R200). -/
def Obligations.StepKeepsBlockInv : Prop :=
  ∀ s t : State, BlockInv s → step s = .next t → BlockInv t

/-- `BlockInv` holds after reset (70_reset_and_hazards.md R230). -/
def Obligations.ResetMeetsBlockInv : Prop := BlockInv State.reset

/-- 20_memory.md R62, 10_state.md R36: only the host's byte store changes the save buffer, and nothing
changes the preset ROM. -/
def Obligations.OnlyHostStoresChangeTheBuffer : Prop :=
  ∀ s t : State, step s = .next t →
    t.presetRom = s.presetRom ∧
    (t.saveBuffer ≠ s.saveBuffer → ∃ a b rest, s.hostMoves = .storeByte a b :: rest)

/-- 20_memory.md R74: the command word is captured in CMD at issue, and no register or buffer write of
the host's changes what the pending command will see. -/
def Obligations.PendingCommandIsIsolated : Prop :=
  ∀ (s t : State) (w : Word), BlockInv s → s.pending = some w →
    (∀ rest, s.hostMoves ≠ .reset :: rest) → ¬ BlockNext s → step s = .next t →
    t.pending = some w ∧ t.cmd = w ∧ t.pal = s.pal ∧ t.bufLen = s.bufLen ∧
    t.saveBuffer = s.saveBuffer ∧ t.presetRom = s.presetRom ∧ t.out = s.out ∧
    (∀ off v rest, s.hostMoves = .write off v :: rest → off ∈ [0x00, 0x08, 0x20, 0x24, 0x28, 0x2C] →
      t.status.ovr = true)

/-- 70_reset_and_hazards.md R245, 20_memory.md R71: a pending command is performed after the host's
register accesses, however many, on the palette, length and buffer that stood at its issue. That the
perform step is the very next one once the host's list is empty is the model's schedule (log 7): R245
says only that it comes after finitely many host steps. -/
def Obligations.PendingCommandIsPerformed : Prop :=
  ∀ (s : State) (w : Word), BlockInv s → s.pending = some w → (∀ move ∈ s.hostMoves, isAccess move) →
    ∃ t u, Host.Core.run core s.hostMoves.length s = .next t ∧ step t = .next u ∧
      step t = perform w t ∧ t.pal = s.pal ∧ t.bufLen = s.bufLen ∧ t.saveBuffer = s.saveBuffer ∧
      t.out = s.out ∧ t.result = s.result ∧ u.pending = none ∧ u.status.busy = false ∧
      u.status.done = true

/-! ## Stream words -/

/-- 30_encoding.md R88 to R91: the formats of HDR, PIX, PV and END. -/
def Obligations.StreamWordFormats : Prop :=
  (∀ (slot : BitVec 5) (n : BitVec 8),
    hdrWord slot n = 0x10000000#32 ||| slot.setWidth 32 <<< 8 ||| n.setWidth 32) ∧
  (∀ c : Rgb, pixWord c = 0x20000000#32 ||| rgbWord c ∧
    (rgbWord c).toNat = c.r.toNat + 256 * c.g.toNat + 65536 * c.b.toNat) ∧
  (∀ v : Pixel, pvWord v = 0x30000000#32 ||| v.setWidth 32) ∧
  (∀ k : BitVec 8, endWord k = 0xE0000000#32 ||| k.setWidth 32) ∧
  (∀ e : BitVec 4, abortWord e = 0xF0000000#32 ||| e.setWidth 32)

/-- 30_encoding.md R93: "a stream word's tag alone tells its kind", and with it every field. -/
def Obligations.StreamWordsReadBack : Prop :=
  ∀ sw : StreamWord, streamFields (streamEncode sw) = some sw

/-! ## The host side -/

/-- 40_color_resolver.md R100 to R109: `resolve` succeeds exactly on the alias and the strings of the
grammars HEX, RGB and PCT, with the values the rules give. -/
def Obligations.ResolverMeetsGrammars : Prop :=
  ∀ (e : ColorExpr) (r g b : Nat), resolve e = .ok (r, g, b) ↔
    (e = "transparent".toList ∧ r = 255 ∧ g = 255 ∧ b = 255) ∨
    (∃ d0 d1 d2, Hex3 e d0 d1 d2 ∧ r = 17 * d0 ∧ g = 17 * d1 ∧ b = 17 * d2) ∨
    (∃ d0 d1 d2 d3 d4 d5, Hex6 e d0 d1 d2 d3 d4 d5 ∧
      r = 16 * d0 + d1 ∧ g = 16 * d2 + d3 ∧ b = 16 * d4 + d5) ∨
    RgbForm e r g b ∨
    (∃ p1 p2 p3, PctForm e p1 p2 p3 ∧
      r = p1 * 255 / 100 ∧ g = p2 * 255 / 100 ∧ b = p3 * 255 / 100)

/-- 40_color_resolver.md R110: an expression that matches no grammar, and no other, fails with
InvalidColorCode carrying the expression as given. -/
def Obligations.ResolverRejectsExactlyTheRest : Prop :=
  ∀ (e : ColorExpr) (err : ResolveError), resolve e = .error err ↔
    err = .invalidColorCode e ∧
      ¬ (e = "transparent".toList ∨ InHex e ∨ InRgb e ∨ InPct e)

/-- 40_color_resolver.md R112: no expression is in two of the grammars, and the alias is in none. -/
def Obligations.GrammarsAreDisjoint : Prop :=
  ∀ e : ColorExpr, ¬ (InHex e ∧ InRgb e) ∧ ¬ (InHex e ∧ InPct e) ∧ ¬ (InRgb e ∧ InPct e) ∧
    ¬ (e = "transparent".toList ∧ (InHex e ∨ InRgb e ∨ InPct e))

/-- 40_color_resolver.md R111, 41_palette_mapper.md R131: the word the host writes for an expression. -/
def Obligations.EntryWordOfExpression : Prop :=
  ∀ e : ColorExpr,
    (∀ err, resolve e = .error err → entryWord e = 0x01000000#32) ∧
    (∀ r g b, resolve e = .ok (r, g, b) →
      (max r (max g b) ≤ 255 → (entryWord e).toNat = r + 256 * g + 65536 * b) ∧
      (255 < max r (max g b) → entryWord e = 0x02000000#32))

/-- 41_palette_mapper.md R135: the fifteen preset names, each with its id, and the assembler's table has
these names and no other. -/
def Obligations.PresetNamesAndIds : Prop :=
  parsePreset "BlackAndWhite".toList = some 0 ∧
  parsePreset "Gameboy".toList = some 1 ∧
  parsePreset "GameboyPlayer".toList = some 2 ∧
  parsePreset "GameboyColorUp".toList = some 3 ∧
  parsePreset "GameboyColorUpA".toList = some 4 ∧
  parsePreset "GameboyColorUpB".toList = some 5 ∧
  parsePreset "GameboyColorDown".toList = some 6 ∧
  parsePreset "GameboyColorDownA".toList = some 7 ∧
  parsePreset "GameboyColorDownB".toList = some 8 ∧
  parsePreset "GameboyColorLeft".toList = some 9 ∧
  parsePreset "GameboyColorLeftA".toList = some 10 ∧
  parsePreset "GameboyColorLeftB".toList = some 11 ∧
  parsePreset "GameboyColorRight".toList = some 12 ∧
  parsePreset "GameboyColorRightA".toList = some 13 ∧
  parsePreset "GameboyColorRightB".toList = some 14 ∧
  presetNames.length = 15

/-- 30_encoding.md R87: the assembler gives a word for exactly the lines of R87's syntax, and the word
R87 gives the line: mnemonics and preset names in any mix of case, decimal and `0x` numbers at their
value. Any case of `INC`, the digit forms and rejecting an operand out of range are the model's
choices (log 17). -/
def Obligations.AssemblerEncodesCommands : Prop :=
  ∀ (tokens : List (List Char)) (w : Word),
    (assemble tokens).map encode = some w ↔ CommandLine tokens w

/-- 70_reset_and_hazards.md R242, 60_exceptions.md R211: of a command's words the host keeps all when
it ends without error, and none when it ends in an error. -/
def Obligations.HostDiscardsAbortedWords : Prop :=
  ∀ (i : Instr) (s t : State) (words : List Word), exec i s = .next t → t.out = s.out ++ words →
    keptWords words = if t.status.err then [] else words
end

