-- ==== Sys2Proof/Laws/Resolver.lean ====
section
/-! SUPPORT. The resolver's digit tests against the grammars' digit characters. -/

namespace Sys2Proof.Machine
open Sys2Proof

/-- A hex digit character has the value of its place in its case's list. -/
theorem hexVal_iff (c : Char) (d : Nat) : hexVal c = some d ↔ HexDigit c d := by
  have hc : ∀ k : Char, c = k ↔ c.toNat = k.toNat := fun k => ⟨fun h => h ▸ rfl, fun h => Char.toNat_inj.1 h⟩
  unfold HexDigit
  constructor
  · intro h
    unfold hexVal at h
    split at h
    · simp at h
      have : d < 10 := by omega
      have : c.toNat = d + 48 := by omega
      interval_cases d <;> simp [lowerHexChars, decimalChars, eq_comm (b := c), hc] <;> omega
    · split at h
      · simp at h
        have : 10 ≤ d ∧ d < 16 := by omega
        have : c.toNat = d + 87 := by omega
        obtain ⟨_, _⟩ := ‹10 ≤ d ∧ d < 16›
        interval_cases d <;> simp [lowerHexChars, upperHexChars, decimalChars, eq_comm (b := c), hc] <;> omega
      · split at h
        · simp at h
          have : 10 ≤ d ∧ d < 16 := by omega
          have : c.toNat = d + 55 := by omega
          obtain ⟨_, _⟩ := ‹10 ≤ d ∧ d < 16›
          interval_cases d <;> simp [lowerHexChars, upperHexChars, decimalChars, eq_comm (b := c), hc] <;> omega
        · simp at h
  · intro h
    have hd : d < 16 := by
      rcases h with h | h <;> exact (List.getElem?_eq_some_iff.1 h).1
    interval_cases d <;> simp [lowerHexChars, upperHexChars, decimalChars] at h <;>
      first
        | (subst h; rfl)
        | (rcases h with h | h <;> subst h <;> rfl)

/-- A decimal digit character has the value of its place in the list. -/
theorem digitVal_iff (c : Char) (d : Nat) : digitVal c = some d ↔ DecDigit c d := by
  have hc : ∀ k : Char, c = k ↔ c.toNat = k.toNat := fun k => ⟨fun h => h ▸ rfl, fun h => Char.toNat_inj.1 h⟩
  unfold DecDigit
  constructor
  · intro h
    unfold digitVal at h
    split at h
    · simp at h
      have : d < 10 := by omega
      have : c.toNat = d + 48 := by omega
      interval_cases d <;> simp [decimalChars, eq_comm (b := c), hc] <;> omega
    · simp at h
  · intro h
    have hd : d < 10 := (List.getElem?_eq_some_iff.1 h).1
    interval_cases d <;> simp [decimalChars] at h <;> (subst h; rfl)

/-- A string of hex digits has their values, one by one. -/
theorem hexVals_iff (e : List Char) (ds : List Nat) : hexVals e = some ds ↔ List.Forall₂ HexDigit e ds := by
  induction e generalizing ds with
  | nil => cases ds <;> simp [hexVals]
  | cons c r ih =>
    simp only [hexVals]
    cases hc : hexVal c with
    | none => 
      simp
      intro h; cases h with | cons a b => rw [(hexVal_iff _ _).2 a] at hc; simp at hc
    | some d =>
      cases hr : hexVals r with
      | none =>
        simp; intro h; cases h with | cons a b => rw [(ih _).2 b] at hr; simp at hr
      | some ds' =>
        simp
        constructor
        · rintro rfl; exact .cons ((hexVal_iff _ _).1 hc) ((ih _).1 hr)
        · intro h; cases h with | cons a b => 
            rw [(ih _).2 b] at hr; rw [(hexVal_iff _ _).2 a] at hc; simp_all

end Sys2Proof.Machine
end

