-- ==== Sys2Proof/Laws/HostSide.lean ====
section
/-! SUPPORT. The assembler's tests of a token against the tokens of 30_encoding.md R87 as
`Grammar.lean` writes them. -/

namespace Sys2Proof.Machine
open Sys2Proof

/-! ## Names -/

theorem toLower_toNat (c : Char) :
    c.toLower.toNat = if 65 ≤ c.toNat ∧ c.toNat ≤ 90 then c.toNat + 32 else c.toNat := by
  have hv : (65 ≤ c.toNat ∧ c.toNat ≤ 90) ↔ (c.val ≥ 'A'.val ∧ c.val ≤ 'Z'.val) := by
    simp [UInt32.le_iff_toNat_le]
  unfold Char.toLower
  simp only [hv]
  split
  · rename_i h
    rw [← hv] at h
    simp only [Char.toNat] at h ⊢
    rw [UInt32.toNat_add]
    have : ('a'.val - 'A'.val).toNat = 32 := by decide
    omega
  · rfl

theorem upperChar_toNat (c : Char) :
    (upperChar c).toNat = if 97 ≤ c.toNat ∧ c.toNat ≤ 122 then c.toNat - 32 else c.toNat := by
  unfold upperChar
  split
  · rw [Char.toNat_ofNat, if_pos (.inl (by omega))]
  · rfl

/-- The assembler's upper case and the library's lower case tell the same characters apart. -/
theorem upperChar_eq_iff (c d : Char) : upperChar c = upperChar d ↔ c.toLower = d.toLower := by
  rw [← Char.toNat_inj, ← Char.toNat_inj, upperChar_toNat, upperChar_toNat, toLower_toNat,
    toLower_toNat]
  split <;> split <;> split <;> split <;> omega

/-- Two tokens are one name exactly when they are equal in lower case. -/
theorem sameName_iff (token : List Char) (name : String) :
    sameName token name = true ↔ AnyCase token name := by
  unfold sameName AnyCase
  rw [beq_iff_eq]
  generalize name.toList = l
  induction token generalizing l with
  | nil => cases l <;> simp
  | cons c rest ih => cases l <;> simp [upperChar_eq_iff, ih]

/-! ## Numbers -/

/-- The digit fold is the library's positional value. -/
theorem digitsIn_eq (base : Nat) (ds : List Nat) : digitsIn base ds = Nat.ofDigits base ds.reverse := by
  rw [digitsIn, Nat.ofDigits_eq_foldr, List.foldr_reverse]
  congr 1
  funext n d
  simp [Nat.add_comm]

/-- A token is all decimal digits exactly when nothing is left after them. -/
theorem takeDigits_iff (e : List Char) (ds : List Nat) :
    takeDigits e = (ds, []) ↔ List.Forall₂ DecDigit e ds := by
  induction e generalizing ds with
  | nil => cases ds <;> simp [takeDigits]
  | cons c rest ih =>
    rw [takeDigits]
    rcases hc : digitVal c with _ | d
    · refine ⟨fun h => by simp at h, fun h => ?_⟩
      cases h with
      | cons hd _ => rw [(digitVal_iff _ _).2 hd] at hc; simp at hc
    · constructor
      · rintro h
        simp only [Prod.mk.injEq] at h
        rw [← h.1]
        exact .cons ((digitVal_iff _ _).1 hc) ((ih _).1 (Prod.ext rfl h.2))
      · intro h
        cases h with
        | cons hd hr =>
          rw [(digitVal_iff _ _).2 hd] at hc
          simp [(ih _).2 hr, Option.some.inj hc]

/-- `x` is no decimal digit. -/
theorem not_decDigit_x (d : Nat) : ¬ DecDigit 'x' d := by
  rw [← digitVal_iff]; simp [digitVal]

/-- The number a token is. -/
theorem parseNumber_iff (token : List Char) (n : Nat) :
    parseNumber token = some n ↔ NumberToken token n := by
  unfold parseNumber NumberToken
  split
  · rename_i c rest
    constructor
    · intro h
      rcases hv : hexVals (c :: rest) with _ | ds
      · simp [hv] at h
      · have hd := (hexVals_iff _ _).1 hv
        refine .inr ⟨c :: rest, ds, ?_, rfl, hd, ?_⟩
        · rintro rfl; cases hd
        · simpa [hv, digitsIn_eq, eq_comm] using h
    · rintro (⟨ds, -, hd, -⟩ | ⟨digits, ds, -, ht, hd, rfl⟩)
      · cases hd with
        | cons _ hr => cases hr with
          | cons hx _ => exact absurd hx (not_decDigit_x _)
      · simp only [List.cons.injEq, true_and] at ht
        rw [ht, (hexVals_iff _ _).2 hd]
        simp [digitsIn_eq]
  · rename_i hx
    constructor
    · intro h
      rcases ht : takeDigits token with ⟨_ | ⟨d, ds⟩, _ | ⟨c, rest⟩⟩ <;> simp [ht] at h
      exact .inl ⟨d :: ds, by simp, (takeDigits_iff _ _).1 ht, by rw [← h, digitsIn_eq]⟩
    · rintro (⟨ds, h0, hd, rfl⟩ | ⟨digits, ds, h0, rfl, hd, -⟩)
      · rw [(takeDigits_iff _ _).2 hd]
        rcases ds with _ | ⟨d, ds⟩
        · exact absurd rfl h0
        · simp [digitsIn_eq]
      · cases hd with
        | nil => exact absurd rfl h0
        | cons _ _ => exact absurd rfl (hx _ _)

/-- A number begins with a decimal digit, which is the same in lower case. -/
theorem numberToken_head {token : List Char} {n : Nat} (h : NumberToken token n) :
    ∃ c rest, token = c :: rest ∧ c.toLower = c ∧ c ∈ decimalChars := by
  have hc : ∀ c ∈ decimalChars, c.toLower = c := by simp [decimalChars]
  rcases h with ⟨ds, h0, hd, -⟩ | ⟨digits, ds, -, rfl, -, -⟩
  · cases hd with
    | nil => exact absurd rfl h0
    | cons hd _ =>
      have hm := List.mem_of_getElem? hd
      exact ⟨_, _, rfl, hc _ hm, hm⟩
  · exact ⟨'0', _, rfl, by decide, by decide⟩

/-! ## Presets -/

/-- The preset names are different in lower case too. -/
theorem presetNames_distinct :
    (presetNames.map fun name => name.toList.map Char.toLower).Nodup := by simp [presetNames]

/-- Every preset name begins with a letter. -/
theorem presetNames_head : ∀ name ∈ presetNames,
    (name.toList.map Char.toLower).head? = some 'b' ∨ (name.toList.map Char.toLower).head? = some 'g' := by
  decide

/-- No number spells a preset name. -/
theorem not_anyCase_of_number {token : List Char} {n : Nat} (h : NumberToken token n) {name : String}
    (hn : name ∈ presetNames) : ¬ AnyCase token name := by
  obtain ⟨c, rest, rfl, hl, hc⟩ := numberToken_head h
  intro ha
  have := presetNames_head name hn
  rw [← ha] at this
  simp only [List.map_cons, List.head?_cons, hl, Option.some.injEq] at this
  rcases this with rfl | rfl <;> revert hc <;> decide

/-- The preset a token is. -/
theorem parsePreset_iff (token : List Char) (n : Nat) :
    parsePreset token = some n ↔ PresetToken token n := by
  unfold parsePreset PresetToken
  rcases hf : presetNames.findIdx? (sameName token) with _ | pid
  · rw [List.findIdx?_eq_none_iff] at hf
    refine ⟨fun h => .inl ((parseNumber_iff _ _).1 h), ?_⟩
    rintro (h | ⟨name, hn, ha⟩)
    · exact (parseNumber_iff _ _).2 h
    · have := hf name (List.mem_of_getElem? hn)
      rw [(sameName_iff _ _).2 ha] at this
      exact absurd this (by simp)
  · obtain ⟨hlt, hp, -⟩ := List.findIdx?_eq_some_iff_getElem.1 hf
    have ha := (sameName_iff _ _).1 hp
    constructor
    · rintro h
      cases h
      exact .inr ⟨_, List.getElem?_eq_getElem hlt, ha⟩
    · rintro (h | ⟨name, hn, hb⟩)
      · exact absurd ha (not_anyCase_of_number h (List.getElem_mem hlt))
      · obtain ⟨hlt', rfl⟩ := List.getElem?_eq_some_iff.1 hn
        have heq := ha.symm.trans hb
        refine congrArg some ((List.Nodup.getElem_inj_iff presetNames_distinct
          (hi := by simpa using hlt) (hj := by simpa using hlt')).1 ?_)
        simpa using heq

/-! ## Lengths -/

/-- The length SETLEN reports, as a number (10_state.md R28). -/
theorem reportedLength_toNat (len : Nat) : (reportedLength len).toNat = min len 0xFFFFFFFF := by
  simp [reportedLength]

/-! ## Lines -/

/-- What an operand in a range can be. -/
theorem operandBelow_iff (limit : Nat) (value : Option Nat) (i : Nat → Instr) (j : Instr) :
    operandBelow limit value i = some j ↔ ∃ n, value = some n ∧ n < limit ∧ i n = j := by
  unfold operandBelow
  cases value <;> simp

/-- A token spells no second name. -/
theorem sameName_false {token : List Char} {name other : String} (h : AnyCase token name)
    (hn : name.toList.map Char.toLower ≠ other.toList.map Char.toLower) :
    sameName token other = false := by
  rw [Bool.eq_false_iff, Ne, sameName_iff]
  exact fun h' => hn (h.symm.trans h')

end Sys2Proof.Machine
end

