-- ==== Sys2Proof/Laws/Memory.lean ====
section
/-! SUPPORT. The save buffer's list of cells: reading after writing, and the canonical form, which every
operation on it keeps and the state after reset has. -/

namespace Sys2Proof.Machine
open Sys2Proof

theorem Memory.wfFrom_cons (lo k : Nat) (x : Byte) (m : Memory) :
    Memory.wfFrom lo ((k, x) :: m) = true ↔
      lo ≤ k ∧ k < Config.saveSize ∧ x ≠ Memory.blank ∧ Memory.wfFrom (k + 1) m = true := by
  simp [Memory.wfFrom, and_assoc]

/-- A canonical form from one offset on is one from every lower offset on. -/
theorem Memory.wfFrom_mono {lo lo' : Nat} {m : Memory} (h : lo ≤ lo')
    (hm : Memory.wfFrom lo' m = true) : Memory.wfFrom lo m = true := by
  cases m with
  | nil => rfl
  | cons kx rest =>
    obtain ⟨k, x⟩ := kx
    rw [Memory.wfFrom_cons] at hm ⊢
    exact ⟨by omega, hm.2⟩

/-- Nothing is listed below the offset a canonical form starts from. -/
theorem Memory.read_below {lo a : Nat} {m : Memory} (hm : Memory.wfFrom lo m = true) (h : a < lo) :
    Memory.read m a = Memory.blank := by
  induction m generalizing lo with
  | nil => rfl
  | cons kx rest ih =>
    obtain ⟨k, x⟩ := kx
    rw [Memory.wfFrom_cons] at hm
    have hk : k ≠ a := by omega
    simpa [Memory.read, hk] using ih hm.2.2.2 (by omega)

theorem Memory.read_cons_same {lo a : Nat} {b : Byte} {m : Memory} (hm : Memory.wfFrom lo m = true)
    (h : a < lo) : Memory.read (Memory.cons a b m) a = b := by
  unfold Memory.cons
  split
  · next hb => rw [Memory.read_below hm h, hb]
  · simp [Memory.read]

theorem Memory.read_cons_other {a a' : Nat} (b : Byte) (m : Memory) (h : a' ≠ a) :
    Memory.read (Memory.cons a b m) a' = Memory.read m a' := by
  unfold Memory.cons
  split
  · rfl
  · simp [Memory.read, h.symm]

/-- A store changes no other byte. -/
theorem Memory.read_write_other (m : Memory) (a a' : Nat) (b : Byte) (h : a' ≠ a) :
    Memory.read (Memory.write m a b) a' = Memory.read m a' := by
  induction m with
  | nil => simp [Memory.write, Memory.read_cons_other _ _ h]
  | cons kx rest ih =>
    obtain ⟨k, x⟩ := kx
    unfold Memory.write
    split
    · rw [Memory.read_cons_other _ _ h]
    · split
      · next _ hk => rw [Memory.read_cons_other _ _ h]; simp [Memory.read, ← hk, h.symm]
      · simp [Memory.read, ih]

/-- The stored byte reads back. -/
theorem Memory.read_write_same {lo : Nat} (m : Memory) (a : Nat) (b : Byte)
    (hm : Memory.wfFrom lo m = true) : Memory.read (Memory.write m a b) a = b := by
  induction m generalizing lo with
  | nil => exact Memory.read_cons_same (lo := a + 1) rfl (by omega)
  | cons kx rest ih =>
    obtain ⟨k, x⟩ := kx
    rw [Memory.wfFrom_cons] at hm
    unfold Memory.write
    split
    · next hk =>
      exact Memory.read_cons_same (lo := k)
        ((Memory.wfFrom_cons k k x rest).2 ⟨le_refl k, hm.2⟩) hk
    · split
      · next _ hk => exact Memory.read_cons_same (lo := k + 1) hm.2.2.2 (by omega)
      · next _ hk =>
        have : k ≠ a := fun h => hk h.symm
        simpa [Memory.read, this] using ih hm.2.2.2

theorem Memory.wfFrom_consOp {lo a : Nat} {b : Byte} {m : Memory} (hlo : lo ≤ a)
    (ha : a < Config.saveSize) (hm : Memory.wfFrom (a + 1) m = true) :
    Memory.wfFrom lo (Memory.cons a b m) = true := by
  unfold Memory.cons
  split
  · exact Memory.wfFrom_mono (by omega) hm
  · next hb => exact (Memory.wfFrom_cons lo a b m).2 ⟨hlo, ha, hb, hm⟩

/-- A store below SAVE_SIZE keeps the canonical form. -/
theorem Memory.wfFrom_write {lo : Nat} (m : Memory) (a : Nat) (b : Byte) (hlo : lo ≤ a)
    (ha : a < Config.saveSize) (hm : Memory.wfFrom lo m = true) :
    Memory.wfFrom lo (Memory.write m a b) = true := by
  induction m generalizing lo with
  | nil => exact Memory.wfFrom_consOp hlo ha rfl
  | cons kx rest ih =>
    obtain ⟨k, x⟩ := kx
    have hcell := hm
    rw [Memory.wfFrom_cons] at hm
    unfold Memory.write
    split
    · next hk =>
      exact Memory.wfFrom_consOp hlo ha ((Memory.wfFrom_cons (a + 1) k x rest).2 ⟨by omega, hm.2⟩)
    · split
      · next _ hk => exact Memory.wfFrom_consOp hlo ha (hk ▸ hm.2.2.2)
      · next h1 h2 =>
        exact (Memory.wfFrom_cons lo k x _).2 ⟨hm.1, hm.2.1, hm.2.2.1, ih (by omega) hm.2.2.2⟩

/-- The one operation on the save buffer keeps the canonical form. -/
theorem Memory.wf_write (m : Memory) (a : Nat) (b : Byte) (ha : a < Config.saveSize)
    (hm : m.wf = true) : (m.write a b).wf = true :=
  Memory.wfFrom_write m a b (Nat.zero_le a) ha hm

theorem State.reset_saveBuffer_wf : State.reset.saveBuffer.wf = true := rfl

end Sys2Proof.Machine
end

