-- ==== Sys2Proof/Laws/State.lean ====
section
/-! SUPPORT. One lemma per field of State for each of its updates, true by `rfl`: the end of a command,
the issue, a dropped write and the reset input; and the fields of STATUS after each event. -/

namespace Sys2Proof.Machine
open Sys2Proof

/-! ## Every end of a command is `State.finish` -/

@[simp] theorem State.complete_eq (s : State) (words : List Word) (v : Word) :
    s.complete words v = s.finish words (.ok v) := rfl
@[simp] theorem State.raiseAbort_eq (s : State) (words : List Word) (kind : ErrorKind) (i0 i1 : Word) :
    s.raiseAbort words kind i0 i1 = s.finish (words ++ [abortWord kind.code]) (.error kind i0 i1) := rfl
@[simp] theorem State.raiseQuiet_eq (s : State) (kind : ErrorKind) (i0 i1 : Word) :
    s.raiseQuiet kind i0 i1 = s.finish [] (.error kind i0 i1) := rfl
@[simp] theorem State.raiseIllegal_eq (s : State) (w : Word) :
    s.raiseIllegal w = s.finish [] (.error .illegalCommand w 0#32) := rfl

/-! ## finish_ok -/

@[simp] theorem State.finish_ok_cmd (s : State) (words : List Word) (v : Word) :
    (s.finish words (.ok v)).cmd = s.cmd := rfl
@[simp] theorem State.finish_ok_status (s : State) (words : List Word) (v : Word) :
    (s.finish words (.ok v)).status = s.status.endOk := rfl
@[simp] theorem State.finish_ok_bufLen (s : State) (words : List Word) (v : Word) :
    (s.finish words (.ok v)).bufLen = s.bufLen := rfl
@[simp] theorem State.finish_ok_result (s : State) (words : List Word) (v : Word) :
    (s.finish words (.ok v)).result = v := rfl
@[simp] theorem State.finish_ok_errInfo0 (s : State) (words : List Word) (v : Word) :
    (s.finish words (.ok v)).errInfo0 = s.errInfo0 := rfl
@[simp] theorem State.finish_ok_errInfo1 (s : State) (words : List Word) (v : Word) :
    (s.finish words (.ok v)).errInfo1 = s.errInfo1 := rfl
@[simp] theorem State.finish_ok_pal (s : State) (words : List Word) (v : Word) :
    (s.finish words (.ok v)).pal = s.pal := rfl
@[simp] theorem State.finish_ok_pending (s : State) (words : List Word) (v : Word) :
    (s.finish words (.ok v)).pending = none := rfl
@[simp] theorem State.finish_ok_out (s : State) (words : List Word) (v : Word) :
    (s.finish words (.ok v)).out = s.out ++ words := rfl
@[simp] theorem State.finish_ok_saveBuffer (s : State) (words : List Word) (v : Word) :
    (s.finish words (.ok v)).saveBuffer = s.saveBuffer := rfl
@[simp] theorem State.finish_ok_presetRom (s : State) (words : List Word) (v : Word) :
    (s.finish words (.ok v)).presetRom = s.presetRom := rfl
@[simp] theorem State.finish_ok_hostMoves (s : State) (words : List Word) (v : Word) :
    (s.finish words (.ok v)).hostMoves = s.hostMoves := rfl
@[simp] theorem State.finish_ok_readData (s : State) (words : List Word) (v : Word) :
    (s.finish words (.ok v)).readData = s.readData := rfl

/-! ## finish_error -/

@[simp] theorem State.finish_error_cmd (s : State) (words : List Word) (kind : ErrorKind) (i0 i1 : Word) :
    (s.finish words (.error kind i0 i1)).cmd = s.cmd := rfl
@[simp] theorem State.finish_error_status (s : State) (words : List Word) (kind : ErrorKind) (i0 i1 : Word) :
    (s.finish words (.error kind i0 i1)).status = s.status.endError kind := rfl
@[simp] theorem State.finish_error_bufLen (s : State) (words : List Word) (kind : ErrorKind) (i0 i1 : Word) :
    (s.finish words (.error kind i0 i1)).bufLen = s.bufLen := rfl
@[simp] theorem State.finish_error_result (s : State) (words : List Word) (kind : ErrorKind) (i0 i1 : Word) :
    (s.finish words (.error kind i0 i1)).result = s.result := rfl
@[simp] theorem State.finish_error_errInfo0 (s : State) (words : List Word) (kind : ErrorKind) (i0 i1 : Word) :
    (s.finish words (.error kind i0 i1)).errInfo0 = i0 := rfl
@[simp] theorem State.finish_error_errInfo1 (s : State) (words : List Word) (kind : ErrorKind) (i0 i1 : Word) :
    (s.finish words (.error kind i0 i1)).errInfo1 = i1 := rfl
@[simp] theorem State.finish_error_pal (s : State) (words : List Word) (kind : ErrorKind) (i0 i1 : Word) :
    (s.finish words (.error kind i0 i1)).pal = s.pal := rfl
@[simp] theorem State.finish_error_pending (s : State) (words : List Word) (kind : ErrorKind) (i0 i1 : Word) :
    (s.finish words (.error kind i0 i1)).pending = none := rfl
@[simp] theorem State.finish_error_out (s : State) (words : List Word) (kind : ErrorKind) (i0 i1 : Word) :
    (s.finish words (.error kind i0 i1)).out = s.out ++ words := rfl
@[simp] theorem State.finish_error_saveBuffer (s : State) (words : List Word) (kind : ErrorKind) (i0 i1 : Word) :
    (s.finish words (.error kind i0 i1)).saveBuffer = s.saveBuffer := rfl
@[simp] theorem State.finish_error_presetRom (s : State) (words : List Word) (kind : ErrorKind) (i0 i1 : Word) :
    (s.finish words (.error kind i0 i1)).presetRom = s.presetRom := rfl
@[simp] theorem State.finish_error_hostMoves (s : State) (words : List Word) (kind : ErrorKind) (i0 i1 : Word) :
    (s.finish words (.error kind i0 i1)).hostMoves = s.hostMoves := rfl
@[simp] theorem State.finish_error_readData (s : State) (words : List Word) (kind : ErrorKind) (i0 i1 : Word) :
    (s.finish words (.error kind i0 i1)).readData = s.readData := rfl

/-! ## issue -/

@[simp] theorem State.issue_cmd (s : State) (w : Word) :
    (s.issue w).cmd = w := rfl
@[simp] theorem State.issue_status (s : State) (w : Word) :
    (s.issue w).status = s.status.issued := rfl
@[simp] theorem State.issue_bufLen (s : State) (w : Word) :
    (s.issue w).bufLen = s.bufLen := rfl
@[simp] theorem State.issue_result (s : State) (w : Word) :
    (s.issue w).result = s.result := rfl
@[simp] theorem State.issue_errInfo0 (s : State) (w : Word) :
    (s.issue w).errInfo0 = s.errInfo0 := rfl
@[simp] theorem State.issue_errInfo1 (s : State) (w : Word) :
    (s.issue w).errInfo1 = s.errInfo1 := rfl
@[simp] theorem State.issue_pal (s : State) (w : Word) :
    (s.issue w).pal = s.pal := rfl
@[simp] theorem State.issue_pending (s : State) (w : Word) :
    (s.issue w).pending = some w := rfl
@[simp] theorem State.issue_out (s : State) (w : Word) :
    (s.issue w).out = s.out := rfl
@[simp] theorem State.issue_saveBuffer (s : State) (w : Word) :
    (s.issue w).saveBuffer = s.saveBuffer := rfl
@[simp] theorem State.issue_presetRom (s : State) (w : Word) :
    (s.issue w).presetRom = s.presetRom := rfl
@[simp] theorem State.issue_hostMoves (s : State) (w : Word) :
    (s.issue w).hostMoves = s.hostMoves := rfl
@[simp] theorem State.issue_readData (s : State) (w : Word) :
    (s.issue w).readData = s.readData := rfl

/-! ## dropWrite -/

@[simp] theorem State.dropWrite_cmd (s : State) :
    s.dropWrite.cmd = s.cmd := rfl
@[simp] theorem State.dropWrite_status (s : State) :
    s.dropWrite.status = s.status.dropped := rfl
@[simp] theorem State.dropWrite_bufLen (s : State) :
    s.dropWrite.bufLen = s.bufLen := rfl
@[simp] theorem State.dropWrite_result (s : State) :
    s.dropWrite.result = s.result := rfl
@[simp] theorem State.dropWrite_errInfo0 (s : State) :
    s.dropWrite.errInfo0 = s.errInfo0 := rfl
@[simp] theorem State.dropWrite_errInfo1 (s : State) :
    s.dropWrite.errInfo1 = s.errInfo1 := rfl
@[simp] theorem State.dropWrite_pal (s : State) :
    s.dropWrite.pal = s.pal := rfl
@[simp] theorem State.dropWrite_pending (s : State) :
    s.dropWrite.pending = s.pending := rfl
@[simp] theorem State.dropWrite_out (s : State) :
    s.dropWrite.out = s.out := rfl
@[simp] theorem State.dropWrite_saveBuffer (s : State) :
    s.dropWrite.saveBuffer = s.saveBuffer := rfl
@[simp] theorem State.dropWrite_presetRom (s : State) :
    s.dropWrite.presetRom = s.presetRom := rfl
@[simp] theorem State.dropWrite_hostMoves (s : State) :
    s.dropWrite.hostMoves = s.hostMoves := rfl
@[simp] theorem State.dropWrite_readData (s : State) :
    s.dropWrite.readData = s.readData := rfl

/-! ## resetBlock -/

@[simp] theorem State.resetBlock_cmd (s : State) :
    s.resetBlock.cmd = 0#32 := rfl
@[simp] theorem State.resetBlock_status (s : State) :
    s.resetBlock.status = Status.clear := rfl
@[simp] theorem State.resetBlock_bufLen (s : State) :
    s.resetBlock.bufLen = 0#32 := rfl
@[simp] theorem State.resetBlock_result (s : State) :
    s.resetBlock.result = 0#32 := rfl
@[simp] theorem State.resetBlock_errInfo0 (s : State) :
    s.resetBlock.errInfo0 = 0#32 := rfl
@[simp] theorem State.resetBlock_errInfo1 (s : State) :
    s.resetBlock.errInfo1 = 0#32 := rfl
@[simp] theorem State.resetBlock_pal (s : State) :
    s.resetBlock.pal = defaultPalette s.presetRom := rfl
@[simp] theorem State.resetBlock_pending (s : State) :
    s.resetBlock.pending = none := rfl
@[simp] theorem State.resetBlock_out (s : State) :
    s.resetBlock.out = [] := rfl
@[simp] theorem State.resetBlock_saveBuffer (s : State) :
    s.resetBlock.saveBuffer = s.saveBuffer := rfl
@[simp] theorem State.resetBlock_presetRom (s : State) :
    s.resetBlock.presetRom = s.presetRom := rfl
@[simp] theorem State.resetBlock_hostMoves (s : State) :
    s.resetBlock.hostMoves = s.hostMoves := rfl
@[simp] theorem State.resetBlock_readData (s : State) :
    s.resetBlock.readData = s.readData := rfl

/-! ## A command's whole end as one record -/

/-- The end without error of a command that emits nothing. -/
theorem State.finish_quiet_ok (s : State) (v : Word) :
    s.finish [] (.ok v) = { s with
      result := v, pending := none, status := ⟨false, true, false, s.status.ovr, 0#4⟩ } := by
  simp only [State.finish, List.append_nil]; rfl

/-- The end with an error of a command that emits nothing. -/
theorem State.finish_quiet_error (s : State) (kind : ErrorKind) (i0 i1 : Word) :
    s.finish [] (.error kind i0 i1) = { s with
      errInfo0 := i0, errInfo1 := i1, pending := none,
      status := ⟨false, true, true, s.status.ovr, kind.code⟩ } := by
  simp only [State.finish, List.append_nil]; rfl

/-- The end without error. -/
theorem State.finish_ok_eq (s : State) (words : List Word) (v : Word) :
    s.finish words (.ok v) = { s with
      out := s.out ++ words, result := v, pending := none,
      status := ⟨false, true, false, s.status.ovr, 0#4⟩ } := rfl

/-- The end with an error. -/
theorem State.finish_error_eq (s : State) (words : List Word) (kind : ErrorKind) (i0 i1 : Word) :
    s.finish words (.error kind i0 i1) = { s with
      out := s.out ++ words, errInfo0 := i0, errInfo1 := i1, pending := none,
      status := ⟨false, true, true, s.status.ovr, kind.code⟩ } := rfl

/-! ## STATUS -/

@[simp] theorem Status.issued_busy (st : Status) : st.issued.busy = true := rfl
@[simp] theorem Status.issued_done (st : Status) : st.issued.done = false := rfl
@[simp] theorem Status.issued_err (st : Status) : st.issued.err = false := rfl
@[simp] theorem Status.issued_ovr (st : Status) : st.issued.ovr = false := rfl
@[simp] theorem Status.issued_errcode (st : Status) : st.issued.errcode = 0#4 := rfl
@[simp] theorem Status.dropped_busy (st : Status) : st.dropped.busy = st.busy := rfl
@[simp] theorem Status.dropped_done (st : Status) : st.dropped.done = st.done := rfl
@[simp] theorem Status.dropped_err (st : Status) : st.dropped.err = st.err := rfl
@[simp] theorem Status.dropped_ovr (st : Status) : st.dropped.ovr = true := rfl
@[simp] theorem Status.dropped_errcode (st : Status) : st.dropped.errcode = st.errcode := rfl
@[simp] theorem Status.endOk_busy (st : Status) : st.endOk.busy = false := rfl
@[simp] theorem Status.endOk_done (st : Status) : st.endOk.done = true := rfl
@[simp] theorem Status.endOk_err (st : Status) : st.endOk.err = false := rfl
@[simp] theorem Status.endOk_ovr (st : Status) : st.endOk.ovr = st.ovr := rfl
@[simp] theorem Status.endOk_errcode (st : Status) : st.endOk.errcode = 0#4 := rfl
@[simp] theorem Status.endError_busy (st : Status) (kind : ErrorKind) : (st.endError kind).busy = false := rfl
@[simp] theorem Status.endError_done (st : Status) (kind : ErrorKind) : (st.endError kind).done = true := rfl
@[simp] theorem Status.endError_err (st : Status) (kind : ErrorKind) : (st.endError kind).err = true := rfl
@[simp] theorem Status.endError_ovr (st : Status) (kind : ErrorKind) : (st.endError kind).ovr = st.ovr := rfl
@[simp] theorem Status.endError_errcode (st : Status) (kind : ErrorKind) : (st.endError kind).errcode = kind.code := rfl

end Sys2Proof.Machine
end

