-- ==== Sys2Proof/Laws/Ops.lean ====
section
/-! SUPPORT. What each shared operation can do, said once: every command ends in one `State.finish`,
a perform step likewise, a register write changes only what the register map names, and the loops of
DECODE_SAVE give the word lists of 43_save_decoder.md R184. -/

namespace Sys2Proof.Machine
open Sys2Proof

/-! ## Commands -/

/-- Every command ends in `State.finish`, on the palette it found unless it is PRESET. -/
theorem exec_cases (i : Instr) (s : State) :
    ∃ (pal : Palette) (words : List Word) (e : CmdEnd),
      exec i s = .next ({ s with pal := pal }.finish words e) ∧
        ((∀ pid, i ≠ .preset pid) → pal = s.pal) := by
  cases i with
  | preset pid =>
    by_cases h : presetLegal pid
    · exact ⟨presetPalette s.presetRom ⟨pid.toNat, h⟩, [], .ok (pid.setWidth 32),
        by simp [exec, execPreset, h], fun hp => absurd rfl (hp pid)⟩
    · exact ⟨s.pal, [], .error .illegalCommand (encode (.preset pid)) 0#32,
        by simp [exec, execPreset, h], fun _ => rfl⟩
  | decodeSlot slot =>
    by_cases h : slotLegal slot
    · by_cases hl : s.bufLen = saveSizeWord
      · exact ⟨s.pal, slotWords s.saveBuffer slot, .ok 1#32,
          by simp only [exec, execDecodeSlot, if_pos h, if_pos hl]; rfl, fun _ => rfl⟩
      · exact ⟨s.pal, [abortWord 1#4], .error .invalidFileSize saveSizeWord s.bufLen,
          by simp [exec, execDecodeSlot, h, hl, ErrorKind.code], fun _ => rfl⟩
    · exact ⟨s.pal, [], .error .illegalCommand (encode (.decodeSlot slot)) 0#32,
        by simp [exec, execDecodeSlot, h], fun _ => rfl⟩
  | decodeSave inc =>
    by_cases hl : s.bufLen = saveSizeWord
    · rcases hd : decodeSlots s.pal s.saveBuffer inc (List.range Config.numSlots) 0 with ⟨words, f | n⟩
      · exact ⟨s.pal, words ++ [abortWord f.kind.code],
          .error f.kind (entryInfo f.entry) (positionInfo f.slot f.row f.col),
          by simp only [exec, execDecodeSave, if_pos hl, hd]; rfl, fun _ => rfl⟩
      · exact ⟨s.pal, words, .ok (BitVec.ofNat 32 n),
          by simp only [exec, execDecodeSave, if_pos hl, hd]; rfl, fun _ => rfl⟩
    · exact ⟨s.pal, [abortWord 1#4], .error .invalidFileSize saveSizeWord s.bufLen,
        by simp [exec, execDecodeSave, hl, ErrorKind.code], fun _ => rfl⟩
  | lookup v =>
    rcases hm : mapValue s.pal v with ⟨kind, k⟩ | c
    · exact ⟨s.pal, [], .error kind (entryInfo k) noPosition,
        by simp [exec, execLookup, hm], fun _ => rfl⟩
    · exact ⟨s.pal, [], .ok (rgbWord c), by simp [exec, execLookup, hm], fun _ => rfl⟩
  | checkActive slot =>
    by_cases h : slotLegal slot
    · by_cases hl : s.bufLen = saveSizeWord
      · exact ⟨s.pal, [], .ok (if active s.saveBuffer slot.toNat then 1#32 else 0#32),
          by simp only [exec, execCheckActive, if_pos h, if_pos hl]; rfl, fun _ => rfl⟩
      · exact ⟨s.pal, [], .error .invalidFileSize saveSizeWord s.bufLen,
          by simp [exec, execCheckActive, h, hl], fun _ => rfl⟩
    · exact ⟨s.pal, [], .error .illegalCommand (encode (.checkActive slot)) 0#32,
        by simp [exec, execCheckActive, h], fun _ => rfl⟩
  | unpack lo hi =>
    exact ⟨s.pal, [], .ok (packLanes (unpack lo hi)), by simp [exec, execUnpack], fun _ => rfl⟩

/-- A perform step executes the decoded command, or ends as IllegalCommand. -/
theorem perform_cases (w : Word) (s : State) :
    (∃ i, decode w = .ok i ∧ perform w s = exec i s) ∨
      ((∃ e, decode w = .error e) ∧
        perform w s = .next (s.finish [] (.error .illegalCommand w 0#32))) := by
  rcases h : decode w with e | i
  · exact .inr ⟨⟨e, rfl⟩, by simp [perform, h]⟩
  · exact .inl ⟨i, rfl, by simp [perform, h]⟩

/-- A perform step always answers a next state. -/
theorem perform_next (w : Word) (s : State) : ∃ t, perform w s = .next t := by
  rcases perform_cases w s with ⟨i, -, h⟩ | ⟨-, h⟩
  · obtain ⟨pal, words, e, he, -⟩ := exec_cases i s
    exact ⟨_, h.trans he⟩
  · exact ⟨_, h⟩

/-- When the block's turn is next and a command is pending, the step is its perform step. -/
theorem step_of_blockNext {s : State} {w : Word} (h : BlockNext s) (hp : s.pending = some w) :
    step s = perform w s := by
  rcases h with h | ⟨rest, h⟩ <;> simp [step, advance, h, hostTurn, waitTurn, blockTurn, hp]

/-- When the host has a move, the step is that move. -/
theorem step_of_hostMove {s : State} {move : HostMove} {rest : List HostMove}
    (h : s.hostMoves = move :: rest) : step s = hostTurn move rest s := by
  simp [step, advance, h]

/-! ## Palettes -/

theorem vector_get_ofFn {α : Type} {n : Nat} (f : Fin n → α) (k : Fin n) : (Vector.ofFn f).get k = f k := by
  simp [Vector.get]; rfl

/-- What PRESET and reset load: the ROM's colors, VALID. -/
@[simp] theorem presetPalette_get (rom : PresetRom) (p : Fin Config.numPresets)
    (k : Fin Config.palEntries) : (presetPalette rom p).get k = ⟨(rom.get p).get k, .valid⟩ :=
  vector_get_ofFn _ k

@[simp] theorem defaultPalette_get (rom : PresetRom) (k : Fin Config.palEntries) :
    (defaultPalette rom).get k = ⟨(rom.get 0).get k, .valid⟩ := vector_get_ofFn _ k

@[simp] theorem configRom_get (p : Fin Config.numPresets) (k : Fin Config.palEntries) :
    (configRom.get p).get k = Config.presetRom p k := by
  unfold configRom
  rw [vector_get_ofFn, vector_get_ofFn]

/-- A lane of the unpacker. -/
@[simp] theorem unpack_get (lo hi : Byte) (i : Fin Config.tileDim) :
    (unpack lo hi).get i = unpackLane lo hi i.val := vector_get_ofFn _ i

/-! ## What the block reads -/

/-- The tile bytes of a slot in numbers. -/
theorem tileByte_iff (s a : Nat) :
    tileByte s a ↔ 0x2000 + s * 0x1000 ≤ a ∧ a < 0x2000 + s * 0x1000 + 0xE00 := Iff.rfl

/-- The offsets the block may read in numbers (20_memory.md R69). -/
theorem readByBlock_iff (a : Nat) :
    readByBlock a ↔ (0x11B2 ≤ a ∧ a < 0x11D0) ∨
      ∃ s, s < 30 ∧ 0x2000 + s * 0x1000 ≤ a ∧ a < 0x2000 + s * 0x1000 + 0xE00 := Iff.rfl

/-! ## Register writes -/

/-- A register write is a dropped write, an issue, a new BUF_LEN or a new palette entry, or nothing. -/
theorem writeRegister_cases (s : State) (off : Nat) (v : Word) :
    s.writeRegister off v = s ∨ (s.status.busy = true ∧ s.writeRegister off v = s.dropWrite) ∨
    (s.status.busy = false ∧
      (s.writeRegister off v = s.issue v ∨ s.writeRegister off v = { s with bufLen := v } ∨
       ∃ k : Fin Config.palEntries,
        s.writeRegister off v = { s with pal := s.pal.set k.val (entryOfWord v) k.isLt })) := by
  unfold State.writeRegister
  split <;> first
    | exact .inl rfl
    | (unfold State.writeCmd; cases hb : s.status.busy <;> simp)
    | (unfold State.writeBufLen; cases hb : s.status.busy <;> simp)
    | (next k _ => unfold State.writePal; cases hb : s.status.busy <;> simp; exact .inr (.inr (.inr ⟨k, rfl⟩)))

/-- A legal register access answers its next state. -/
theorem registerAccess_legal {off : Nat} (h : offsetLegal off) (s' : State) :
    registerAccess off s' = .next s' := by
  obtain ⟨h1, h2⟩ := h
  simp [registerAccess, Nat.not_le.2 h1, h2]

/-- A legal byte store answers its next state. -/
theorem storeByte_legal {a : Nat} {s : State} (b : Byte) (ha : a < Config.saveSize)
    (hb : s.status.busy = false) :
    storeByte a b s = .next { s with saveBuffer := s.saveBuffer.write a b } := by
  simp [storeByte, Nat.not_le.2 ha, hb]

/-! ## Pixels and images -/

/-- The coordinates of an image. -/
theorem mem_rowMajor {y c : Nat} : (y, c) ∈ rowMajor ↔ y < 112 ∧ c < 128 := by
  simp [rowMajor]

theorem rowMajor_length : rowMajor.length = 14336 := by
  simp [rowMajor, Config.imgH, Config.imgW]

/-- A pixel depends only on its two plane bytes. -/
theorem pixel_congr {m m' : Memory} {s y c : Nat}
    (h0 : m'.read (rowOffset s y (c / 8)) = m.read (rowOffset s y (c / 8)))
    (h1 : m'.read (rowOffset s y (c / 8) + 1) = m.read (rowOffset s y (c / 8) + 1)) :
    pixel m' s y c = pixel m s y c := by
  unfold pixel planeLow planeHigh
  rw [h0, h1]

theorem mapValue_badCode {pal : Palette} {v : Pixel} (h : (pal.get (palIndex v)).st = .badCode) :
    mapValue pal v = .error (.invalidColorCode, v) := by
  simp [mapValue, h]

theorem mapValue_badRange {pal : Palette} {v : Pixel} (h : (pal.get (palIndex v)).st = .badRange) :
    mapValue pal v = .error (.componentRange, v) := by
  simp [mapValue, h]

theorem mapValue_valid {pal : Palette} {v : Pixel} (h : (pal.get (palIndex v)).st = .valid) :
    mapValue pal v = .ok (pal.get (palIndex v)).color := by
  simp [mapValue, h]

/-- A run of pixels that select VALID entries gives their PIX words. -/
theorem mapPixels_good (pal : Palette) (m : Memory) (slot : Nat) (ps : List (Nat × Nat))
    (h : ∀ p ∈ ps, ¬ pixelBad pal m slot p) :
    mapPixels pal m slot ps = (ps.map (pixOf pal m slot), none) := by
  induction ps with
  | nil => rfl
  | cons p rest ih =>
    obtain ⟨y, c⟩ := p
    have hv : (pal.get (palIndex (pixel m slot y c))).st = .valid :=
      not_not.1 (h (y, c) List.mem_cons_self)
    simp [mapPixels, mapValue_valid hv, ih fun q hq => h q (List.mem_cons_of_mem _ hq), pixOf]

/-- VALID pixels in front of a list only add their PIX words in front. -/
theorem mapPixels_append (pal : Palette) (m : Memory) (slot : Nat) (ps qs : List (Nat × Nat))
    (h : ∀ p ∈ ps, ¬ pixelBad pal m slot p) :
    mapPixels pal m slot (ps ++ qs) =
      (ps.map (pixOf pal m slot) ++ (mapPixels pal m slot qs).1, (mapPixels pal m slot qs).2) := by
  induction ps with
  | nil => rfl
  | cons p rest ih =>
    obtain ⟨y, c⟩ := p
    have hv : (pal.get (palIndex (pixel m slot y c))).st = .valid :=
      not_not.1 (h (y, c) List.mem_cons_self)
    simp [mapPixels, mapValue_valid hv, ih fun q hq => h q (List.mem_cons_of_mem _ hq), pixOf]

/-- A failure of a run of pixels is the mapping error of one of them. -/
theorem mapPixels_fail {pal : Palette} {m : Memory} {slot : Nat} {ps : List (Nat × Nat)}
    {f : PixelFailure} (h : (mapPixels pal m slot ps).2 = some f) :
    ∃ p ∈ ps, mapValue pal (pixel m slot p.1 p.2) = .error (f.kind, f.entry) ∧
      f.slot = slot ∧ f.row = p.1 ∧ f.col = p.2 := by
  induction ps with
  | nil => simp [mapPixels] at h
  | cons p ps ih =>
    obtain ⟨y, c⟩ := p
    rw [mapPixels] at h
    split at h
    · obtain ⟨q, hq, hf⟩ := ih h
      exact ⟨q, List.mem_cons_of_mem _ hq, hf⟩
    · rename_i he
      cases h
      exact ⟨(y, c), List.mem_cons_self, he, rfl, rfl, rfl⟩

/-- A failure of DECODE_SAVE is the mapping error of a pixel of a slot it selects. -/
theorem decodeSlots_fail {pal : Palette} {m : Memory} {inc : Bool} {slots : List Nat} {n : Nat}
    {f : PixelFailure} (h : (decodeSlots pal m inc slots n).2 = .error f) :
    ∃ slot ∈ slots, (inc || active m slot) = true ∧ ∃ p ∈ rowMajor,
      mapValue pal (pixel m slot p.1 p.2) = .error (f.kind, f.entry) ∧
        f.slot = slot ∧ f.row = p.1 ∧ f.col = p.2 := by
  induction slots generalizing n with
  | nil => simp [decodeSlots] at h
  | cons slot rest ih =>
    rw [decodeSlots] at h
    split at h
    · obtain ⟨s, hs, hf⟩ := ih h
      exact ⟨s, List.mem_cons_of_mem _ hs, hf⟩
    · rename_i hs
      split at h
      · obtain ⟨s, hs, hf⟩ := ih h
        exact ⟨s, List.mem_cons_of_mem _ hs, hf⟩
      · rename_i hm
        cases h
        exact ⟨slot, List.mem_cons_self, by revert hs; cases inc <;> cases active m slot <;> simp,
          mapPixels_fail (by rw [hm])⟩

/-- A slot left out by INC = 0 leaves no trace (43_save_decoder.md R181). -/
theorem decodeSlots_skip (pal : Palette) (m : Memory) (inc : Bool) (slot n : Nat) (rest : List Nat)
    (h : (inc || active m slot) = false) :
    decodeSlots pal m inc (slot :: rest) n = decodeSlots pal m inc rest n := by
  simp only [Bool.or_eq_false_iff] at h
  simp [decodeSlots, h.1, h.2]

/-- A selected slot of VALID pixels puts its image in front. -/
theorem decodeSlots_emit (pal : Palette) (m : Memory) (inc : Bool) (slot n : Nat) (rest : List Nat)
    (h : (inc || active m slot) = true) (hg : ∀ p ∈ rowMajor, ¬ pixelBad pal m slot p) :
    decodeSlots pal m inc (slot :: rest) n =
      (imageWords pal m slot (n + 1) ++ (decodeSlots pal m inc rest (n + 1)).1,
        (decodeSlots pal m inc rest (n + 1)).2) := by
  have h' : (!inc && !active m slot) = false := by
    cases inc <;> cases hb : active m slot <;> simp_all
  simp only [decodeSlots, h', mapPixels_good pal m slot rowMajor hg, imageWords]
  simp

/-- A selected slot with a failing pixel ends the loop at that pixel. -/
theorem decodeSlots_stop (pal : Palette) (m : Memory) (inc : Bool) (slot n : Nat) (rest : List Nat)
    (ps qs : List (Nat × Nat)) (y c : Nat) (kind : ErrorKind)
    (h : (inc || active m slot) = true) (hr : rowMajor = ps ++ (y, c) :: qs)
    (hg : ∀ p ∈ ps, ¬ pixelBad pal m slot p)
    (hb : mapValue pal (pixel m slot y c) = .error (kind, pixel m slot y c)) :
    decodeSlots pal m inc (slot :: rest) n =
      (hdrWord (BitVec.ofNat 5 slot) (BitVec.ofNat 8 (n + 1)) :: ps.map (pixOf pal m slot),
        .error ⟨kind, pixel m slot y c, slot, y, c⟩) := by
  have h' : (!inc && !active m slot) = false := by
    cases inc <;> cases hb : active m slot <;> simp_all
  have hm : mapPixels pal m slot rowMajor =
      (ps.map (pixOf pal m slot), some ⟨kind, pixel m slot y c, slot, y, c⟩) := by
    rw [hr, mapPixels_append pal m slot ps _ hg, mapPixels, hb]
    simp only [List.append_nil]
  rw [decodeSlots, h', hm]
  rfl

end Sys2Proof.Machine
end

