-- ==== Sys2Proof/Laws/Words.lean ====
section
/-! SUPPORT. The words of the block as numbers: every concatenation of fields of spec/ equals the sum of
its fields, each times its place. -/

namespace Sys2Proof.Machine
open Sys2Proof

/-- PIXEL_BITS as a number: a pixel value is below 4. -/
theorem pixel_toNat_lt (v : Pixel) : v.toNat < 4 := v.isLt

/-- A concatenation as a number. -/
theorem append_toNat {n m : Nat} (x : BitVec n) (y : BitVec m) :
    (x ++ y).toNat = x.toNat * 2 ^ m + y.toNat := by
  rw [BitVec.toNat_append, Nat.shiftLeft_eq, Nat.mul_comm, ← Nat.two_pow_add_eq_or_of_lt y.isLt]

theorem encode_preset_toNat (pid : BitVec 4) : (encode (.preset pid)).toNat = 256 * pid.toNat + 1 := by
  show BitVec.toNat (w := 20 + 4 + 8) (0#20 ++ pid ++ 0x01#8) = _
  simp only [append_toNat, BitVec.toNat_ofNat]; omega

theorem encode_decodeSlot_toNat (slot : BitVec 5) :
    (encode (.decodeSlot slot)).toNat = 256 * slot.toNat + 2 := by
  show BitVec.toNat (w := 19 + 5 + 8) (0#19 ++ slot ++ 0x02#8) = _
  simp only [append_toNat, BitVec.toNat_ofNat]; omega

theorem encode_decodeSave_toNat (inc : Bool) :
    (encode (.decodeSave inc)).toNat = 256 * inc.toNat + 3 := by
  cases inc <;> rfl

theorem encode_lookup_toNat (v : Pixel) : (encode (.lookup v)).toNat = 256 * v.toNat + 4 := by
  show BitVec.toNat (w := 22 + 2 + 8) (0#22 ++ v ++ 0x04#8) = _
  simp only [append_toNat, BitVec.toNat_ofNat]; omega

theorem encode_checkActive_toNat (slot : BitVec 5) :
    (encode (.checkActive slot)).toNat = 256 * slot.toNat + 5 := by
  show BitVec.toNat (w := 19 + 5 + 8) (0#19 ++ slot ++ 0x05#8) = _
  simp only [append_toNat, BitVec.toNat_ofNat]; omega

theorem encode_unpack_toNat (lo hi : Byte) :
    (encode (.unpack lo hi)).toNat = 65536 * hi.toNat + 256 * lo.toNat + 6 := by
  show BitVec.toNat (w := 8 + 8 + 8 + 8) (0#8 ++ hi ++ lo ++ 0x06#8) = _
  simp only [append_toNat, BitVec.toNat_ofNat]; omega

theorem hdrWord_toNat (slot : BitVec 5) (n : BitVec 8) :
    (hdrWord slot n).toNat = 0x10000000 + 256 * slot.toNat + n.toNat := by
  show BitVec.toNat (w := 4 + 15 + 5 + 8) (0x1#4 ++ 0#15 ++ slot ++ n) = _
  simp only [append_toNat, BitVec.toNat_ofNat]; omega

theorem pixWord_toNat (c : Rgb) :
    (pixWord c).toNat = 0x20000000 + 65536 * c.b.toNat + 256 * c.g.toNat + c.r.toNat := by
  show BitVec.toNat (w := 4 + 4 + 8 + 8 + 8) (0x2#4 ++ 0#4 ++ c.b ++ c.g ++ c.r) = _
  simp only [append_toNat, BitVec.toNat_ofNat]; omega

theorem pvWord_toNat (v : Pixel) : (pvWord v).toNat = 0x30000000 + v.toNat := by
  have := pixel_toNat_lt v
  show BitVec.toNat (w := 4 + 26 + 2) (0x3#4 ++ 0#26 ++ v) = _
  simp only [append_toNat, BitVec.toNat_ofNat, Config.pixelBits]; omega

theorem endWord_toNat (k : BitVec 8) : (endWord k).toNat = 0xE0000000 + k.toNat := by
  show BitVec.toNat (w := 4 + 20 + 8) (0xE#4 ++ 0#20 ++ k) = _
  simp only [append_toNat, BitVec.toNat_ofNat]; omega

theorem abortWord_toNat (e : BitVec 4) : (abortWord e).toNat = 0xF0000000 + e.toNat := by
  show BitVec.toNat (w := 4 + 24 + 4) (0xF#4 ++ 0#24 ++ e) = _
  simp only [append_toNat, BitVec.toNat_ofNat]; omega

theorem rgbWord_toNat (c : Rgb) :
    (rgbWord c).toNat = 65536 * c.b.toNat + 256 * c.g.toNat + c.r.toNat := by
  show BitVec.toNat (w := 8 + 8 + 8 + 8) (0#8 ++ c.b ++ c.g ++ c.r) = _
  simp only [append_toNat, BitVec.toNat_ofNat]; omega

theorem palWord_toNat (e : PalEntry) :
    (palWord e).toNat =
      16777216 * e.st.code.toNat + 65536 * e.color.b.toNat + 256 * e.color.g.toNat
        + e.color.r.toNat := by
  show BitVec.toNat (w := 6 + 2 + 8 + 8 + 8) (0#6 ++ e.st.code ++ e.color.b ++ e.color.g ++ e.color.r) = _
  simp only [append_toNat, BitVec.toNat_ofNat]; omega

theorem positionInfo_toNat (s y c : Nat) (hs : s < 32) (hy : y < 128) (hc : c < 128) :
    (positionInfo s y c).toNat = 65536 * s + 256 * y + c := by
  show BitVec.toNat (w := 11 + 5 + 1 + 7 + 1 + 7)
    (0#11 ++ BitVec.ofNat 5 s ++ 0#1 ++ BitVec.ofNat 7 y ++ 0#1 ++ BitVec.ofNat 7 c) = _
  simp only [append_toNat, BitVec.toNat_ofNat]; omega

/-- The bits of UNPACK's word, field by field. -/
theorem encode_unpack_getLsbD (lo hi : Byte) (j : Nat) :
    (encode (.unpack lo hi)).getLsbD j =
      if j < 8 then (0x06#8).getLsbD j
      else if j - 8 < 8 then lo.getLsbD (j - 8)
      else if j - 8 - 8 < 8 then hi.getLsbD (j - 8 - 8) else (0#8).getLsbD (j - 8 - 8 - 8) := by
  show BitVec.getLsbD (w := 8 + 8 + 8 + 8) (0#8 ++ hi ++ lo ++ 0x06#8) j = _
  simp only [BitVec.getLsbD_append]

end Sys2Proof.Machine
end

