-- ==== Sys2Proof/Laws/PerInstr.lean ====
section
/-! SUPPORT. One lemma per instruction about its encoding: the opcode stands in bits [3:0], bits [7:4]
are 0 (30_encoding.md R80), and the word selects the instruction's row of the opcode map (R84). -/

namespace Sys2Proof.Laws.EncodingFields
open Sys2Proof

/-- What every encoding has in common (30_encoding.md R80, R84). -/
def Statement (i : Instr) : Prop :=
  opField (encode i) = i.opcode ∧ (encode i).extractLsb' 4 4 = 0#4 ∧ i.row.selects (encode i) = true

theorem preset (pid : BitVec 4) : Statement (.preset pid) := by
  revert pid; unfold Statement; decide

theorem decodeSlot (slot : BitVec 5) : Statement (.decodeSlot slot) := by
  revert slot; unfold Statement; decide

theorem decodeSave (inc : Bool) : Statement (.decodeSave inc) := by
  revert inc; unfold Statement; decide

theorem lookup (v : Pixel) : Statement (.lookup v) := by
  revert v; unfold Statement; decide

theorem checkActive (slot : BitVec 5) : Statement (.checkActive slot) := by
  revert slot; unfold Statement; decide

theorem unpack (lo hi : Byte) : Statement (.unpack lo hi) := by
  refine ⟨?_, ?_, ?_⟩
  · apply BitVec.eq_of_toNat_eq
    simp [opField, Instr.opcode, Machine.encode_unpack_toNat]; omega
  · apply BitVec.eq_of_toNat_eq
    simp [BitVec.extractLsb'_toNat, Machine.encode_unpack_toNat, Nat.shiftRight_eq_div_pow]; omega
  · simp only [OpcodeRow.selects, Instr.row, beq_iff_eq]
    apply BitVec.eq_of_getLsbD_eq
    intro j hj
    rw [BitVec.getLsbD_and, Machine.encode_unpack_getLsbD]
    interval_cases j <;> simp

end Sys2Proof.Laws.EncodingFields
end

