-- ==== Sys2Proof/Tests/Slice0.lean ====
section
/-! SUPPORT. Tests of the model on values taken from spec/ (mostly 95_test_vectors.md, named in each
comment), and for each statement with hypotheses a state and operands that meet all of them. -/

namespace Sys2Proof.Tests
open Sys2Proof Sys2Proof.Machine

/-! ## Small states -/

/-- A ROM whose color names its place, for tests only: the spec gives no colors. -/
def rom : PresetRom := Vector.ofFn fun p => Vector.ofFn fun k => ⟨BitVec.ofNat 8 p, BitVec.ofNat 8 k, 7#8⟩

/-- The state after reset, over the test ROM. -/
def idle : State := { State.reset with presetRom := rom, pal := defaultPalette rom }

/-- A command word accepted by CMD and not yet performed. -/
def issued (s : State) (w : Word) : State := s.issue w

/-- BUF_LEN = 131072 and the given save buffer. -/
def loaded (m : Memory) : State := { idle with bufLen := 0x00020000#32, saveBuffer := m }

/-- The flags of the "standard buffer" of 95_test_vectors.md: every slot deleted. -/
def deletedFlags : Memory := (List.range 30).map fun k => (0x11B2 + k, 0xFF#8)

/-- Four entries written as words. -/
def palOf (w0 w1 w2 w3 : Word) : Palette :=
  #v[entryOfWord w0, entryOfWord w1, entryOfWord w2, entryOfWord w3]

/-- A property of the next state, false of a fault or a refusal. -/
def nextHas (o : Host.Outcome State Fault Refusal) (p : State → Bool) : Bool :=
  match o with
  | .next t => p t
  | .fault _ => false
  | .refused _ => false

/-- The same after `k` steps. -/
def afterSteps (k : Nat) (s : State) (p : State → Bool) : Bool := nextHas (Host.Core.run core k s) p

/-! ## Well-formedness: one refused term for each check -/

theorem test_wf_preset_refuses_15 : (Instr.preset 15#4).wellFormed = false := by decide
theorem test_wf_decodeSlot_refuses_30 : (Instr.decodeSlot 30#5).wellFormed = false := by decide
theorem test_wf_checkActive_refuses_31 : (Instr.checkActive 31#5).wellFormed = false := by decide
theorem test_wf_accepts_limits :
    (Instr.preset 14#4).wellFormed = true ∧ (Instr.decodeSlot 29#5).wellFormed = true ∧
    (Instr.checkActive 29#5).wellFormed = true := by decide

/-- 00_scope.md R7: the consistency checks among the constants. -/
theorem test_constants_consistent :
    Config.imgBase + Config.numSlots * Config.slotStride = Config.saveSize ∧
      Config.tilesX * Config.tilesY * Config.tileBytes = 0xE00 ∧ 0xE00 ≤ Config.slotStride ∧
      flagOffset 0 = 0x11B2 ∧ flagOffset 29 = 0x11CF ∧ flagOffset 29 < Config.imgBase ∧
      rowOffset 29 111 15 + 1 = 0x1FDFF ∧ Config.tilesX * Config.tileDim = Config.imgW ∧
      Config.tilesY * Config.tileDim = Config.imgH := by decide

/-! ## Decoding: words written out from 30_encoding.md R81, and 95_test_vectors.md T70 -/

theorem test_decode_preset_word :
    decode 0b0000_0000_0000_0000_0000_1110_0000_0001#32 = .ok (.preset 14#4) := by decide
theorem test_decode_decodeSlot_word :
    decode 0b0000_0000_0000_0000_0001_1101_0000_0010#32 = .ok (.decodeSlot 29#5) := by decide
theorem test_decode_decodeSave_word :
    decode 0b0000_0000_0000_0000_0000_0001_0000_0011#32 = .ok (.decodeSave true) := by decide
theorem test_decode_lookup_word :
    decode 0b0000_0000_0000_0000_0000_0011_0000_0100#32 = .ok (.lookup 3#2) := by decide
theorem test_decode_checkActive_word :
    decode 0b0000_0000_0000_0000_0000_0011_0000_0101#32 = .ok (.checkActive 3#5) := by decide
theorem test_decode_unpack_word :
    decode 0b0000_0000_0111_1110_0011_1100_0000_0110#32 = .ok (.unpack 0x3C#8 0x7E#8) := by decide
theorem test_decode_illegal_words :
    [0x00000000#32, 0x00000007#32, 0x0000000F#32].map decode =
        List.replicate 3 (.error .reservedOpcode) ∧
      [0x00000011#32, 0x80000001#32, 0x00002002#32, 0x00000203#32, 0x00000404#32, 0x01000006#32,
        0x000000F6#32, 0x10000001#32].map decode = List.replicate 8 (.error .reservedBits) ∧
      decode 0x00000F01#32 = .error .reservedPreset ∧
      [0x00001E02#32, 0x00001F05#32].map decode = List.replicate 2 (.error .reservedSlot) := by decide
theorem test_decodeTableWord :
    decodeTableWord 32 0x00001D05 = some (.checkActive 29#5) ∧
      decodeTableWord 8 0x00001D05 = some (.checkActive 0#5) ∧
      decodeTableWord 40 0x1000000003 = none := by decide

/-! ## Stream words: 95_test_vectors.md W9, P1, T40 -/

theorem test_stream_words :
    hdrWord 29#5 21#8 = 0x10001D15#32 ∧ pixWord ⟨0xA8#8, 0x55#8, 1#8⟩ = 0x200155A8#32 ∧
      pvWord 3#2 = 0x30000003#32 ∧ endWord 30#8 = 0xE000001E#32 ∧ abortWord 2#4 = 0xF0000002#32 := by
  decide

/-! ## Commands -/

/-- T12: `PRESET 14` over BAD entries. -/
theorem test_preset_replaces_all_entries :
    nextHas (exec (.preset 14#4) { idle with pal := palOf 0x01000000#32 0 0x02000000#32 0 }) (fun t =>
      palWord (t.pal.get 0) == 0x0007000E#32 && palWord (t.pal.get 3) == 0x0007030E#32 &&
      t.result == 14#32 && t.status.word == 0x00000002#32 && t.out == []) = true := by decide

/-- T11: a VALID entry; STATUS 0x2. -/
theorem test_lookup_valid :
    nextHas (exec (.lookup 1#2) { idle with pal := palOf 0x00FFFFFF#32 0x00030201#32 0x01000000#32 0x02000000#32 })
      (fun t => t.result == 0x00030201#32 && t.status.word == 0x00000002#32) = true := by decide

/-- T11: a BAD_RANGE entry; STATUS 0x36, RESULT kept. -/
theorem test_lookup_bad_range :
    nextHas (exec (.lookup 3#2)
        { idle with result := 9#32, pal := palOf 0x00FFFFFF#32 0x00030201#32 0x01000000#32 0x02000000#32 })
      (fun t => t.result == 9#32 && t.status.word == 0x00000036#32 && t.errInfo0 == 3#32 &&
        t.errInfo1 == 0x80000000#32 && t.out == []) = true := by decide

/-- T20: the rows 0x3C/0x7E and 0x12/0x34. -/
theorem test_unpack_vectors :
    nextHas (exec (.unpack 0x3C#8 0x7E#8) idle) (fun t => t.result == 0x00002FF8#32) = true ∧
      nextHas (exec (.unpack 0x12#8 0x34#8) idle) (fun t => t.result == 0x000018E0#32) = true := by decide

/-- W13: flags 0xFF and 0x80. -/
theorem test_checkActive_flags :
    nextHas (exec (.checkActive 3#5) (loaded [(0x11B5, 0xFF#8)])) (fun t => t.result == 0#32) = true ∧
      nextHas (exec (.checkActive 4#5) (loaded [(0x11B6, 0x80#8)])) (fun t => t.result == 1#32) = true := by
  decide

/-- T51: the length check of CHECK_ACTIVE, no stream word. -/
theorem test_checkActive_length :
    nextHas (exec (.checkActive 3#5) idle) (fun t => t.status.word == 0x00000016#32 &&
      t.errInfo0 == 0x00020000#32 && t.errInfo1 == 0#32 && t.out == []) = true := by decide

/-- T43: the length check of DECODE_SLOT, BUF_LEN 131073. -/
theorem test_decodeSlot_length :
    nextHas (exec (.decodeSlot 3#5) { idle with bufLen := 131073#32 }) (fun t =>
      t.status.word == 0x00000016#32 && t.errInfo1 == 0x00020001#32 && t.out == [0xF0000001#32]) = true := by
  decide

/-- T40: the first words of slot 4's stream. -/
theorem test_decodeSlot_first_words :
    nextHas (exec (.decodeSlot 4#5) (loaded [(0x6000, 0x3C#8), (0x6001, 0x7E#8)])) (fun t =>
      t.out.take 9 == [0x10000401#32, 0x30000000#32, 0x30000002#32, 0x30000003#32, 0x30000003#32,
        0x30000003#32, 0x30000003#32, 0x30000002#32, 0x30000000#32]) = true := by decide

/-- T60: every slot deleted, INC = 0. -/
theorem test_decodeSave_deleted :
    nextHas (exec (.decodeSave false) (loaded deletedFlags)) (fun t =>
      t.out == [0xE0000000#32] && t.result == 0#32 && t.status.word == 0x00000002#32) = true := by decide

/-- T64: the first selected BAD entry decides the code. -/
theorem test_decodeSave_first_bad_pixel :
    nextHas (exec (.decodeSave false)
        { loaded [(0x2000, 0x40#8)] with pal := palOf 0 0x02000000#32 0x01000000#32 0 }) (fun t =>
      t.out == [0x10000001#32, 0x20000000#32, 0xF0000003#32] && t.status.word == 0x00000036#32 &&
      t.errInfo0 == 1#32 && t.errInfo1 == 1#32) = true := by decide

/-! ## The tile decoder: 95_test_vectors.md T30, T31 -/

theorem test_rowOffset :
    rowOffset 5 9 2 = 0x7122 ∧ rowOffset 13 50 9 = 0x0F694 ∧ rowOffset 29 111 15 = 0x1FDFE := by decide
theorem test_pixel :
    pixel [(0x7122, 0x40#8), (0x7123, 0x40#8)] 5 9 17 = 3#2 ∧
      pixel [(0x2DFE, 0x01#8)] 0 111 127 = 1#2 := by decide
theorem test_position : positionInfo 29 111 127 = 0x001D6F7F#32 := by decide

/-! ## Steps and the host: 95_test_vectors.md T10, T71, T80, T82, T84 -/

/-- T71: an illegal word, performed. -/
theorem test_illegal_word :
    afterSteps 1 (issued idle 0x00000303#32) (fun t => t.status.word == 0x00000046#32 &&
      t.errInfo0 == 0x00000303#32 && t.errInfo1 == 0#32 && t.cmd == 0x00000303#32 && t.out == []) = true := by
  decide

/-- T82: dropped writes while BUSY, then the perform step keeps OVR. -/
theorem test_writes_while_busy :
    afterSteps 3 { idle with hostMoves := [.write 0x00 0x00000104#32, .write 0x24 0#32, .read 0x04] }
        (fun t => t.readData == 0x00000009#32 && t.cmd == 0x00000104#32) = true ∧
      afterSteps 3 { idle with hostMoves := [.write 0x00 0x00000104#32, .write 0x08 0#32, .wait] }
        (fun t => t.status.word == 0x0000000A#32 && t.result == 0x00070100#32) = true := by decide

/-- T10: WARL of the status field and the ignored bits. -/
theorem test_pal_warl :
    afterSteps 2 { idle with hostMoves := [.write 0x20 0xFFFFFFFF#32, .read 0x20] }
        (fun t => t.readData == 0x01FFFFFF#32) = true ∧
      afterSteps 2 { idle with hostMoves := [.write 0x20 0xFC123456#32, .read 0x20] }
        (fun t => t.readData == 0x00123456#32) = true := by decide

/-- T84: reset while BUSY drops the command. -/
theorem test_reset_while_busy :
    afterSteps 3 { idle with hostMoves := [.write 0x00 0x00000003#32, .reset] } (fun t =>
      t.cmd == 0#32 && t.status.word == 0#32 && t.pending == none && t.out == []) = true := by decide

/-- The first step after reset runs the placed command (log 5). -/
theorem test_withFetchWord :
    nextHas (step (State.reset.withFetchWord 32 0x007E3C06)) (fun t => t.result == 0x00002FF8#32) = true := by
  decide

/-- The stops of the host's moves (logs 10, 11, 12). -/
theorem test_host_stops :
    (match step { idle with hostMoves := [.write 0x02 0#32] } with
      | .refused r => r == .misalignedRegisterAccess 2 | .next _ => false | .fault _ => false) = true ∧
    (match step { issued idle 4#32 with hostMoves := [.storeByte 0 1#8] } with
      | .refused r => r == .bufferWriteWhileBusy 0 | .next _ => false | .fault _ => false) = true ∧
    (match step { idle with hostMoves := [.storeByte 131072 1#8] } with
      | .fault f => f == .outsideSaveBuffer 131072 | .next _ => false | .refused _ => false) = true := by decide

/-! ## The host side: 95_test_vectors.md T1, T2, W5 -/

theorem test_entryWord_accepted :
    entryWord "#1a9".toList = 0x0099AA11#32 ∧ entryWord "1A2b3C".toList = 0x003C2B1A#32 ∧
      entryWord "transparent".toList = 0x00FFFFFF#32 ∧
      entryWord "RGB(10 , 20 ,30)".toList = 0x001E140A#32 ∧
      entryWord "rgb(33%,66%,67%)".toList = 0x00AAA854#32 ∧
      entryWord "rgb(100%,0%,0%)".toList = 0x000000FF#32 := by decide
theorem test_entryWord_bad_range :
    entryWord "rgb(007, 255 ,299)".toList = 0x02000000#32 ∧
      entryWord "rgb(0%, 50% ,199%)".toList = 0x02000000#32 := by decide
theorem test_entryWord_rejected :
    ["", "Transparent", "##fff", "#ffff", "#ggg", " #fff", "0xfff", "rgb( 0,0,0)", "rgb (0,0,0)",
      "rgb(0\t,0,0)", "rgb(300,0,0)", "rgb(0255,0,0)", "rgb(-1,0,0)", "rgb(0,0)", "rgb(0,0,0,0)",
      "rgb(200%,0%,0%)", "rgb(10 %,0%,0%)", "rgb(10%,0%,0)", "notacolor"].all
        (fun e => entryWord e.toList == 0x01000000#32) = true := by decide
theorem test_assemble :
    assemble ["preset".toList, "gameboycolorrightb".toList] = some (.preset 14#4) ∧
      assemble ["CHECK_ACTIVE".toList, "0x1d".toList] = some (.checkActive 29#5) ∧
      assemble ["UNPACK".toList, "0x3C".toList, "126".toList] = some (.unpack 0x3C#8 0x7E#8) ∧
      assemble ["DECODE_SLOT".toList, "30".toList] = none ∧
      assemble ["Decode_Save".toList, "inC".toList] = some (.decodeSave true) := by decide
theorem test_recoverError :
    nextHas (exec (.lookup 2#2)
        { idle with pal := palOf 0 0 (entryWord "notacolor".toList) 0 }) (fun t =>
      recoverError #v[[], [], "notacolor".toList, []] t == some (.invalidColorCode "notacolor".toList)) = true ∧
    nextHas (exec (.lookup 3#2)
        { idle with pal := palOf 0 0 0 (entryWord "rgb(256,0,0)".toList) }) (fun t =>
      recoverError #v[[], [], [], "rgb(256,0,0)".toList] t
        == some (.componentRange "rgb(256,0,0)".toList)) = true := by
  decide

/-! ## Witnesses: a state and operands that meet a statement's hypotheses -/

/-- Nothing is listed at an offset that no cell of the list has. -/
theorem read_unlisted (m : Memory) (a : Nat) (h : ∀ cell ∈ m, cell.1 ≠ a) : m.read a = 0x00#8 := by
  induction m with
  | nil => rfl
  | cons cell rest ih =>
    obtain ⟨k, x⟩ := cell
    have hk : k ≠ a := h (k, x) List.mem_cons_self
    simpa [Memory.read, hk] using ih fun c hc => h c (List.mem_cons_of_mem _ hc)

theorem witness_wellFormed_and_illFormed :
    (Instr.preset 14#4).wellFormed = true ∧ (Instr.decodeSlot 30#5).wellFormed = false := by decide

theorem witness_blockNext_pending :
    BlockNext (issued idle 0x00000007#32) ∧ (issued idle 0x00000007#32).pending = some 0x00000007#32 ∧
      ReservedWord 0x00000007#32 :=
  ⟨.inl rfl, rfl, .inr (.inl (by decide))⟩

theorem witness_step_performs :
    ∃ s : State, BlockNext s ∧ s.pending = some 0x00000305#32 ∧ s.hostMoves = [.wait] ∧
      decode 0x00000305#32 = .ok (.checkActive 3#5) :=
  ⟨{ issued idle 0x00000305#32 with hostMoves := [.wait] }, .inr ⟨[], rfl⟩, rfl, rfl, by decide⟩

theorem witness_reserved_words :
    ReservedWord 0x00000F01#32 ∧ ReservedWord 0x00001E02#32 ∧ ReservedWord 0x00000203#32 ∧
      ReservedWord 0x00000404#32 ∧ ReservedWord 0x00001F05#32 ∧ ReservedWord 0x01000006#32 ∧
      ¬ ReservedWord 0x00001D02#32 := by
  refine ⟨?_, ?_, ?_, ?_, ?_, ?_, ?_⟩ <;> unfold ReservedWord <;> decide

theorem witness_idle : idle.hostMoves = [] ∧ idle.pending = none := by decide

theorem witness_wait_idle :
    ({ idle with hostMoves := [.wait] } : State).hostMoves = .wait :: [] ∧ idle.pending = none := by decide

/-- A state with one host move, idle or BUSY. -/
def withMove (busy : Bool) (move : HostMove) : State :=
  { (if busy then issued idle 4#32 else idle) with hostMoves := [move] }

theorem witness_cmd_write :
    (withMove true (.write 0x00 1#32)).hostMoves = .write 0x00 1#32 :: [] ∧
      (withMove true (.write 0x00 1#32)).status.busy = true ∧
      (withMove false (.write 0x00 1#32)).hostMoves = .write 0x00 1#32 :: [] ∧
      (withMove false (.write 0x00 1#32)).status.busy = false := by decide

theorem witness_bufLen_write :
    (withMove true (.write 0x08 1#32)).hostMoves = .write 0x08 1#32 :: [] ∧
      (withMove true (.write 0x08 1#32)).status.busy = true ∧
      (withMove false (.write 0x08 1#32)).hostMoves = .write 0x08 1#32 :: [] ∧
      (withMove false (.write 0x08 1#32)).status.busy = false := by decide

theorem witness_pal_write :
    (withMove true (.write 0x20 1#32)).hostMoves = .write (0x20 + 4 * (0 : Fin 4).val) 1#32 :: [] ∧
      (withMove true (.write 0x20 1#32)).status.busy = true ∧
      (withMove false (.write 0x2C 1#32)).hostMoves = .write (0x20 + 4 * (3 : Fin 4).val) 1#32 :: [] ∧
      (withMove false (.write 0x2C 1#32)).status.busy = false := by decide

theorem witness_ignored_writes :
    [0x04, 0x0C, 0x10, 0x14, 0x18, 0x1C, 0x30, 0xFFC].all (fun off =>
      decide (off < 0x1000) && off % 4 == 0 &&
        (withMove false (.write off 1#32)).hostMoves == [.write off 1#32]) = true := by decide

theorem witness_reads_and_misaligned :
    (withMove false (.read 0xFFC)).hostMoves = .read 0xFFC :: [] ∧
      (withMove false (.read 0xFFF)).hostMoves = .read 0xFFF :: [] ∧ 0xFFF < 0x1000 ∧ 0xFFF % 4 ≠ 0 ∧
      (withMove true (.write 0x01 1#32)).hostMoves = .write 0x01 1#32 :: [] := by decide

theorem witness_reset_move : (withMove true .reset).hostMoves = .reset :: [] := by decide

theorem witness_offsets : offsetLegal 0x04 ∧ offsetLegal 0x1C ∧ offsetLegal 0x30 ∧ offsetLegal 0xFFC ∧
    ¬ offsetLegal 0x1000 ∧ ¬ offsetLegal 0x02 := by
  unfold offsetLegal; decide

theorem witness_read_after_write :
    idle.status.busy = false ∧
      ({ idle with hostMoves := [.write (regOffset (.pal 3)) 1#32, .read (regOffset (.pal 3))] } : State).hostMoves
        = .write (regOffset (.pal 3)) 1#32 :: .read (regOffset (.pal 3)) :: [] := ⟨rfl, rfl⟩

theorem witness_storeByte :
    (withMove false (.storeByte 131071 1#8)).hostMoves = .storeByte 131071 1#8 :: [] ∧
      (withMove false (.storeByte 131071 1#8)).status.busy = false ∧
      (withMove false (.storeByte 131071 1#8)).saveBuffer.wf = true ∧
      (withMove true (.storeByte 0 1#8)).hostMoves = .storeByte 0 1#8 :: [] ∧
      (withMove true (.storeByte 0 1#8)).status.busy = true ∧
      (withMove false (.storeByte 131072 1#8)).hostMoves = .storeByte 131072 1#8 :: [] := by decide

theorem witness_loadPal :
    idle.status.busy = false ∧
      ({ idle with hostMoves := loadPal [] [] [] [] } : State).hostMoves = loadPal [] [] [] [] ++ [] := by
  exact ⟨rfl, (List.append_nil _).symm⟩

theorem witness_lookup_entries :
    ((palOf 0 0x01000000#32 0x02000000#32 0).get (palIndex 0#2)).st = .valid ∧
      ((palOf 0 0x01000000#32 0x02000000#32 0).get (palIndex 1#2)).st = .badCode ∧
      ((palOf 0 0x01000000#32 0x02000000#32 0).get (palIndex 2#2)).st = .badRange := by decide

/-- A palette loaded from an expression of no grammar and one with a component above 255, a LOOKUP of
each, and a command of another BUF_LEN. -/
theorem witness_loaded_expressions :
    ∃ (s : State) (exprs : Vector ColorExpr 4), (∀ k, s.pal.get k = entryOfWord (entryWord (exprs.get k))) ∧
      resolve (exprs.get (palIndex 0#2)) = .error (.invalidColorCode ['x']) ∧
      resolve (exprs.get (palIndex 3#2)) = .ok (256, 0, 0) ∧ 255 < max 256 (max 0 0) ∧
      (Instr.checkActive 29#5).wellFormed = true ∧ readsBuffer (.checkActive 29#5) = true ∧
      s.bufLen ≠ 131072#32 :=
  ⟨{ idle with pal := palOf 0x01000000#32 0x01000000#32 0x01000000#32 0x02000000#32 },
    #v[['x'], ['x'], ['x'], "rgb(256,0,0)".toList], by decide, by decide, by decide, by decide, by decide,
    by decide, by decide⟩

/-- DECODE_SAVE over such a palette: it fails at its first pixel, of an entry that holds no color. -/
theorem witness_loaded_expressions_decodeSave :
    ∃ (s t : State) (exprs : Vector ColorExpr 4), (∀ k, s.pal.get k = entryOfWord (entryWord (exprs.get k))) ∧
      s.bufLen = 131072#32 ∧ exec (.decodeSave false) s = .next t ∧ t.status.err = true :=
  ⟨{ loaded [] with pal := Vector.replicate 4 (entryOfWord (entryWord ['x'])) }, _,
    Vector.replicate 4 ['x'], by decide, rfl, rfl, by decide⟩

/-- A command that ends in an error after a header, and one that ends without. -/
theorem witness_kept_words :
    (∃ t words, exec (.decodeSave false) { loaded [] with pal := palOf 0x01000000#32 0 0 0 } = .next t ∧
      t.out = [] ++ words ∧ t.status.err = true ∧ words = [0x10000001#32, 0xF0000002#32]) ∧
    ∃ t words, exec (.decodeSave false) (loaded deletedFlags) = .next t ∧ t.out = [] ++ words ∧
      t.status.err = false ∧ words = [0xE0000000#32] :=
  ⟨⟨_, _, rfl, rfl, by decide, by decide⟩, ⟨_, _, rfl, rfl, by decide, by decide⟩⟩

theorem witness_decodeSlot_length_ok :
    (29#5).toNat < 30 ∧ (loaded []).bufLen = 131072#32 ∧ idle.bufLen ≠ 131072#32 := by decide

theorem witness_tile_agreement :
    (0#5).toNat < 30 ∧ ∀ a, tileByte (0#5).toNat a →
      Memory.read [(0x2E00, 0x5A#8)] a = (loaded []).saveBuffer.read a := by
  refine ⟨by decide, fun a ha => ?_⟩
  have h : 0x2E00 ≠ a := by
    have h2 : a < baseOffset 0 + 0xE00 := ha.2
    simp [baseOffset, Config.imgBase] at h2; omega
  simp [Memory.read, h, loaded]

theorem witness_solid_zero_region : ∀ a, baseOffset 29 ≤ a → a < baseOffset 29 + 0x1000 →
    Memory.read [] a = 0x00#8 := fun _ _ _ => rfl

/-- `n` cells of 0xFF from an offset on. -/
def ones (a : Nat) : Nat → Memory
  | 0 => []
  | n + 1 => (a, 0xFF#8) :: ones (a + 1) n

theorem read_ones (n a x : Nat) (h : a ≤ x) (hx : x < a + n) : (ones a n).read x = 0xFF#8 := by
  induction n generalizing a with
  | zero => omega
  | succ n ih =>
    by_cases hax : a = x
    · simp [ones, Memory.read, hax]
    · simpa [ones, Memory.read, hax] using ih (a + 1) (by omega) (by omega)

theorem witness_solid_ones_region : ∀ a, baseOffset 0 ≤ a → a < baseOffset 0 + 0x1000 →
    (ones (baseOffset 0) 0x1000).read a = 0xFF#8 := fun a h h' => read_ones _ _ a h h'

theorem pixelBad_of_valid (m : Memory) (slot : Nat) (p : Nat × Nat) (e : PalEntry) (h : e.st = .valid) :
    ¬ pixelBad (Vector.replicate 4 e) m slot p := by
  simp [pixelBad, Vector.get, h]

/-- DECODE_SAVE runs to END: all slots active, all entries VALID. -/
theorem witness_decodeSave_success :
    ∃ s : State, s.bufLen = 131072#32 ∧
      ∀ slot ∈ selectedSlots s.saveBuffer true, ∀ p ∈ rowMajor, ¬ pixelBad s.pal s.saveBuffer slot p :=
  ⟨{ loaded [] with pal := Vector.replicate 4 ⟨⟨1#8, 2#8, 3#8⟩, .valid⟩ }, rfl,
    fun slot _ p _ => pixelBad_of_valid _ slot p _ rfl⟩

/-- DECODE_SAVE stops at its second pixel (T64). -/
theorem witness_decodeSave_bad_pixel :
    ∃ (s : State) (after : List Nat) (qs : List (Nat × Nat)), s.bufLen = 131072#32 ∧
      selectedSlots s.saveBuffer false = [] ++ 0 :: after ∧ rowMajor = [(0, 0)] ++ (0, 1) :: qs ∧
      (∀ p ∈ [((0 : Nat), (0 : Nat))], ¬ pixelBad s.pal s.saveBuffer 0 p) ∧
      pixelBad s.pal s.saveBuffer 0 (0, 1) :=
  ⟨{ loaded [(0x2000, 0x40#8)] with pal := palOf 0 0x02000000#32 0x01000000#32 0 },
    (selectedSlots [(0x2000, 0x40#8)] false).tail, rowMajor.tail.tail, rfl, by decide, rfl,
    by unfold pixelBad; decide, by unfold pixelBad; decide⟩

theorem witness_decodeSave_no_error :
    ∃ t : State, exec (.decodeSave false) (loaded deletedFlags) = .next t ∧ t.status.err = false :=
  ⟨_, rfl, by decide⟩

/-- Slot 0 active and of value 0, the others deleted (95_test_vectors.md W12, v = 0). -/
theorem witness_solid_slot :
    ∃ (s : State), s.bufLen = 131072#32 ∧ s.saveBuffer.read 0x11B2 ≠ 0xFF#8 ∧
      (∀ slot, 0 < slot → slot < 30 → s.saveBuffer.read (0x11B2 + slot) = 0xFF#8) ∧
      (∀ y c, y < 112 → c < 128 → pixel s.saveBuffer 0 y c = 0#2) ∧
      (s.pal.get (palIndex 0#2)).st = .valid := by
  refine ⟨{ loaded (ones 0x11B3 29) with pal := palOf 0 0 0 0 }, rfl, by decide, ?_, ?_, by decide⟩
  · intro slot h0 h30
    exact read_ones 29 0x11B3 _ (by omega) (by omega)
  · intro y c _ _
    have hr : ∀ a, 0x2000 ≤ a → (ones 0x11B3 29).read a = 0x00#8 := by
      intro a ha
      apply read_unlisted
      have hk : ∀ cell ∈ ones 0x11B3 29, cell.1 < 0x2000 := by decide
      intro cell hc
      have := hk cell hc
      omega
    have h1 : 0x2000 ≤ rowOffset 0 y (c / 8) := by
      simp [rowOffset, tileStart, baseOffset, Config.imgBase]; omega
    show unpackLane ((ones 0x11B3 29).read (rowOffset 0 y (c / 8)))
      ((ones 0x11B3 29).read (rowOffset 0 y (c / 8) + 1)) (c % 8) = 0#2
    rw [hr _ h1, hr _ (by omega)]
    simp [unpackLane]

theorem witness_unread_bytes : ∀ a, readByBlock a →
    Memory.read [(0x1FFF, 0x5A#8)] a = (loaded []).saveBuffer.read a := by
  intro a ha
  have h : 0x1FFF ≠ a := by
    rintro rfl
    rw [readByBlock_iff] at ha
    omega
  simp [Memory.read, h, loaded]

theorem witness_length_check :
    (Instr.decodeSave true).wellFormed = true ∧ readsBuffer (.decodeSave true) = true ∧
      idle.bufLen ≠ 131072#32 ∧ (131071#32 : Word) ≠ 131072#32 ∧ (131073#32 : Word) ≠ 131072#32 := by decide

/-- SETLEN of a length of 2^32 and above, whose low 32 bits are 131072: BUF_LEN holds 0xFFFFFFFF. -/
theorem witness_setLen :
    ({ idle with hostMoves := setLen 0x100020000 } : State).hostMoves = setLen 0x100020000 ++ [] ∧
      idle.status.busy = false ∧ 0x100020000 ≠ 131072 ∧ reportedLength 0x100020000 = 0xFFFFFFFF#32 ∧
      reportedLength 0xFFFFFFFE = 0xFFFFFFFE#32 ∧ reportedLength 131072 = 131072#32 ∧
      reportedLength 0 = 0#32 := by decide

theorem witness_precise_error :
    ∃ (s t : State) (w : Word), BlockNext s ∧ s.pending = some w ∧ step s = .next t ∧
      t.status.err = true ∧ decode w = .ok (.decodeSlot 0#5) :=
  ⟨issued idle 0x00000002#32, _, 0x00000002#32, .inl rfl, rfl, rfl, by decide, by decide⟩

theorem witness_blockInv_idle : BlockInv idle where
  busy_pending := rfl
  pending_cmd := fun _ h => nomatch h
  busy_not_done := by decide
  err_done := by decide
  ok_code := by decide
  code_range := by decide
  buffer_wf := rfl
  out_legal := by intro w h; exact nomatch h

theorem witness_blockInv_busy : BlockInv (issued idle 0x00000005#32) where
  busy_pending := rfl
  pending_cmd := fun _ h => Option.some.inj h
  busy_not_done := by decide
  err_done := by decide
  ok_code := by decide
  code_range := by decide
  buffer_wf := rfl
  out_legal := by intro w h; exact nomatch h

/-- The invariant says nothing about the host's moves. -/
theorem blockInv_with_moves {s : State} (h : BlockInv s) (ms : List HostMove) :
    BlockInv { s with hostMoves := ms } :=
  ⟨h.busy_pending, h.pending_cmd, h.busy_not_done, h.err_done, h.ok_code, h.code_range, h.buffer_wf,
    h.out_legal⟩

theorem witness_step_from_blockInv : ∃ s t, BlockInv s ∧ step s = .next t :=
  ⟨issued idle 0x00000005#32, _, witness_blockInv_busy, rfl⟩

theorem witness_pending_isolated :
    ∃ (s t : State), BlockInv s ∧ s.pending = some 0x00000005#32 ∧
      (∀ rest, s.hostMoves ≠ .reset :: rest) ∧ ¬ BlockNext s ∧ step s = .next t ∧
      s.hostMoves = .write 0x20 0#32 :: [] :=
  ⟨{ issued idle 0x00000005#32 with hostMoves := [.write 0x20 0#32] }, _,
    blockInv_with_moves witness_blockInv_busy _, rfl, by simp, by simp [BlockNext], rfl, rfl⟩

theorem witness_pending_with_accesses :
    ∃ s : State, BlockInv s ∧ s.pending = some 0x00000005#32 ∧ s.hostMoves.length = 2 ∧
      ∀ move ∈ s.hostMoves, isAccess move := by
  refine ⟨{ issued idle 0x00000005#32 with hostMoves := [.write 0xFFC 0#32, .read 0x04] },
    blockInv_with_moves witness_blockInv_busy _, rfl, rfl, ?_⟩
  intro move hm
  simp at hm
  rcases hm with rfl | rfl <;> exact ⟨by decide, by decide⟩

theorem witness_store_changes_buffer :
    ∃ s t : State, step s = .next t ∧ t.saveBuffer ≠ s.saveBuffer :=
  ⟨{ idle with hostMoves := [.storeByte 0 1#8] }, _, rfl, by decide⟩

theorem witness_resolve_outcomes :
    resolve "red".toList = .error (.invalidColorCode "red".toList) ∧
      resolve "rgb(255,255,255)".toList = .ok (255, 255, 255) ∧
      resolve "rgb(256,0,0)".toList = .ok (256, 0, 0) := by decide

/-- Lines of 30_encoding.md R87 with their words: a name in mixed case, hex and decimal operands. -/
theorem witness_command_lines :
    CommandLine ["Preset".toList, "gameboyCOLORrightb".toList] 0x00000E01#32 ∧
      CommandLine ["lookup".toList, "0x3".toList] 0x00000304#32 ∧
      CommandLine ["DECODE_SAVE".toList, "INC".toList] 0x00000103#32 ∧
      CommandLine ["Decode_Slot".toList, "29".toList] 0x00001D02#32 :=
  ⟨.preset (pid := 14) (by unfold AnyCase; decide) (.inr ⟨_, rfl, by unfold AnyCase; decide⟩) (by decide),
    .lookup (v := 3) (by unfold AnyCase; decide)
      (.inr ⟨_, [3], by decide, rfl, .cons (.inl rfl) .nil, by decide⟩) (by decide),
    .decodeSaveInc (by unfold AnyCase; decide) (by unfold AnyCase; decide),
    .decodeSlot (slot := 29) (by unfold AnyCase; decide)
      (.inl ⟨[2, 9], by decide, .cons rfl (.cons rfl .nil), by decide⟩) (by decide)⟩

end Sys2Proof.Tests
end

section
/-! Proofs of the statements of 10_state.md: what a register access does, how a perform step is
reached, the frame of every command, and which words close a command's stream. -/

namespace Sys2Proof.Machine
open Sys2Proof

/-! ## The register map -/

/-- The map is `regOffset`, read backwards (10_state.md R22). -/
@[simp] theorem regAt_regOffset (r : Reg) : regAt (regOffset r) = some r := by
  cases r with
  | pal k => revert k; decide
  | _ => rfl

theorem offsetLegal_regOffset (r : Reg) : offsetLegal (regOffset r) := by
  cases r with
  | pal k => revert k; unfold offsetLegal; decide
  | _ => exact ⟨by decide, rfl⟩

/-- An offset that is no register's has no register (10_state.md R22). -/
theorem regAt_eq_none {off : Nat} (h : ∀ r, off ≠ regOffset r) : regAt off = none := by
  rw [regAt, List.lookup_eq_none_iff]
  intro p hp
  have hr : p.1 = regOffset p.2 := by revert p; decide
  simpa [hr] using h p.2

/-- The reserved offsets of 10_state.md R22, in numbers. -/
theorem regAt_reserved {off : Nat} (h : off = 0x18 ∨ off = 0x1C ∨ 0x30 ≤ off) : regAt off = none := by
  refine regAt_eq_none fun r => ?_
  cases r with
  | pal k => have hk : k.val < 4 := k.isLt; simp only [regOffset]; omega
  | _ => simp only [regOffset]; omega

@[simp] theorem readRegister_regOffset (s : State) (r : Reg) :
    s.readRegister (regOffset r) = s.readReg r := by
  simp [State.readRegister]

theorem readRegister_reserved (s : State) {off : Nat} (h : regAt off = none) :
    s.readRegister off = 0#32 := by
  simp [State.readRegister, h]

/-! ## Writes -/

theorem writeRegister_cmd (s : State) (w : Word) : s.writeRegister 0x00 w = s.writeCmd w := rfl

theorem writeRegister_bufLen (s : State) (v : Word) : s.writeRegister 0x08 v = s.writeBufLen v := rfl

theorem writeRegister_pal (s : State) (k : Fin Config.palEntries) (v : Word) :
    s.writeRegister (regOffset (.pal k)) v = s.writePal k v := by
  simp [State.writeRegister]

/-- A write at a read-only or a reserved offset is ignored (10_state.md R23). -/
theorem writeRegister_ignored (s : State) (v : Word) {off : Nat}
    (h : off = 0x04 ∨ off = 0x0C ∨ off = 0x10 ∨ off = 0x14 ∨ off = 0x18 ∨ off = 0x1C ∨ 0x30 ≤ off) :
    s.writeRegister off v = s := by
  rcases h with rfl | rfl | rfl | rfl | h
  · rfl
  · rfl
  · rfl
  · rfl
  · simp [State.writeRegister, regAt_reserved h]

theorem writeCmd_busy {s : State} (w : Word) (h : s.status.busy = true) : s.writeCmd w = s.dropWrite := by
  simp [State.writeCmd, h]

theorem writeCmd_idle {s : State} (w : Word) (h : s.status.busy = false) : s.writeCmd w = s.issue w := by
  simp [State.writeCmd, h]

theorem writeBufLen_busy {s : State} (v : Word) (h : s.status.busy = true) :
    s.writeBufLen v = s.dropWrite := by
  simp [State.writeBufLen, h]

theorem writeBufLen_idle {s : State} (v : Word) (h : s.status.busy = false) :
    s.writeBufLen v = { s with bufLen := v } := by
  simp [State.writeBufLen, h]

theorem writePal_busy {s : State} (k : Fin Config.palEntries) (v : Word) (h : s.status.busy = true) :
    s.writePal k v = s.dropWrite := by
  simp [State.writePal, h]

theorem writePal_idle {s : State} (k : Fin Config.palEntries) (v : Word) (h : s.status.busy = false) :
    s.writePal k v = { s with pal := s.pal.set k.val (entryOfWord v) k.isLt } := by
  simp [State.writePal, h]

/-! ## The host's accesses as steps -/

/-- A legal write is made by the step it heads. -/
theorem step_of_write {s : State} {off : Nat} {v : Word} {rest : List HostMove}
    (hm : s.hostMoves = .write off v :: rest) (h : offsetLegal off) :
    step s = .next { s.writeRegister off v with hostMoves := rest } :=
  (step_of_hostMove hm).trans (registerAccess_legal h _)

/-- A legal read fills the host's `readData`. -/
theorem step_of_read {s : State} {off : Nat} {rest : List HostMove}
    (hm : s.hostMoves = .read off :: rest) (h : offsetLegal off) :
    step s = .next { s with readData := s.readRegister off, hostMoves := rest } :=
  (step_of_hostMove hm).trans (registerAccess_legal h _)

/-- An offset in the window that is no multiple of 4 is refused (10_state.md R23; log 10). -/
theorem registerAccess_misaligned {off : Nat} (h : off < 0x1000) (h4 : off % 4 ≠ 0) (s' : State) :
    registerAccess off s' = .refused (.misalignedRegisterAccess off) := by
  simp [registerAccess, Config.regWindow, Nat.not_le.2 h, h4]

/-! ## STATUS and palette entries in numbers -/

/-- The word of STATUS is the sum of its fields, each at its place (10_state.md R25). -/
theorem Status.word_toNat (st : Status) :
    st.word.toNat = st.busy.toNat + 2 * st.done.toNat + 4 * st.err.toNat + 8 * st.ovr.toNat
      + 16 * st.errcode.toNat := by
  show BitVec.toNat (w := 24 + 4 + 1 + 1 + 1 + 1) (0#24 ++ st.errcode ++ BitVec.ofBool st.ovr
    ++ BitVec.ofBool st.err ++ BitVec.ofBool st.done ++ BitVec.ofBool st.busy) = _
  simp only [append_toNat, BitVec.toNat_ofNat, BitVec.toNat_ofBool]; omega

/-- The WARL form of the status field: 3 is stored as 1 (10_state.md R35). -/
theorem entryStatusOf_code_toNat (field : BitVec 2) :
    (entryStatusOf field).code.toNat = if field.toNat = 3 then 1 else field.toNat := by
  revert field; decide

/-- A field of a word as a number. -/
theorem field_toNat (w : Word) (start len : Nat) :
    (w.extractLsb' start len).toNat = w.toNat / 2 ^ start % 2 ^ len := by
  rw [BitVec.extractLsb'_toNat, Nat.shiftRight_eq_div_pow]

theorem entryOfWord_color_toNat (v : Word) :
    (entryOfWord v).color.r.toNat = v.toNat % 256 ∧
      (entryOfWord v).color.g.toNat = v.toNat / 256 % 256 ∧
      (entryOfWord v).color.b.toNat = v.toNat / 65536 % 256 := by
  simp only [entryOfWord, field_toNat]; omega

theorem entryOfWord_st_toNat (v : Word) :
    (entryOfWord v).st.code.toNat =
      if v.toNat / 16777216 % 4 = 3 then 1 else v.toNat / 16777216 % 4 := by
  exact field_toNat v 24 2 ▸ entryStatusOf_code_toNat _

/-- Bits [31:26] of the written word do not come back (10_state.md R35). -/
theorem palWord_entryOfWord_toNat (v : Word) :
    (palWord (entryOfWord v)).toNat =
      v.toNat % 16777216 +
        (if v.toNat / 16777216 % 4 = 3 then 1 else v.toNat / 16777216 % 4) * 16777216 := by
  obtain ⟨hr, hg, hb⟩ := entryOfWord_color_toNat v
  rw [palWord_toNat, entryOfWord_st_toNat, hr, hg, hb]
  omega

theorem palette_get_set_self (pal : Palette) (k : Fin Config.palEntries) (e : PalEntry) :
    (pal.set k.val e k.isLt).get k = e := by
  simp [Vector.get_eq_getElem]

theorem palette_get_set_other (pal : Palette) {j k : Fin Config.palEntries} (e : PalEntry) (h : j ≠ k) :
    (pal.set k.val e k.isLt).get j = pal.get j := by
  have hv : k.val ≠ j.val := fun hjk => h (Fin.ext hjk.symm)
  simp [Vector.get_eq_getElem, Vector.getElem_set_ne, hv]

/-- Every aligned offset outside PAL reads 0 after reset (10_state.md R22, reset column). -/
theorem reset_readRegister_eq_zero {off : Nat} (h4 : off % 4 = 0) (h : off < 0x20 ∨ 0x30 ≤ off) :
    State.reset.readRegister off = 0#32 := by
  rcases h with h | h
  · obtain ⟨k, rfl⟩ := Nat.dvd_of_mod_eq_zero h4
    have hk : k < 8 := by omega
    interval_cases k <;> rfl
  · exact readRegister_reserved _ (regAt_reserved (.inr (.inr h)))

/-! ## The commands, one equation per end -/

theorem exec_preset {pid : BitVec 4} (s : State) (h : presetLegal pid) :
    exec (.preset pid) s = .next
      ({ s with pal := presetPalette s.presetRom ⟨pid.toNat, h⟩ }.finish [] (.ok (pid.setWidth 32))) := by
  simp [exec, execPreset, h]

theorem exec_preset_illegal {pid : BitVec 4} (s : State) (h : ¬ presetLegal pid) :
    exec (.preset pid) s =
      .next (s.finish [] (.error .illegalCommand (encode (.preset pid)) 0#32)) := by
  simp [exec, execPreset, h]

theorem exec_lookup_ok {s : State} {v : Pixel} {c : Rgb} (h : mapValue s.pal v = .ok c) :
    exec (.lookup v) s = .next (s.finish [] (.ok (rgbWord c))) := by
  simp [exec, execLookup, h]

theorem exec_lookup_error {s : State} {v k : Pixel} {kind : ErrorKind}
    (h : mapValue s.pal v = .error (kind, k)) :
    exec (.lookup v) s = .next (s.finish [] (.error kind (entryInfo k) noPosition)) := by
  simp [exec, execLookup, h]

theorem exec_decodeSlot {s : State} {slot : BitVec 5} (h : slotLegal slot)
    (hl : s.bufLen = saveSizeWord) :
    exec (.decodeSlot slot) s = .next (s.finish (slotWords s.saveBuffer slot) (.ok 1#32)) := by
  simp only [exec, execDecodeSlot, if_pos h, if_pos hl, State.complete_eq]

theorem exec_decodeSlot_badLength {s : State} {slot : BitVec 5} (h : slotLegal slot)
    (hl : s.bufLen ≠ saveSizeWord) :
    exec (.decodeSlot slot) s = .next (s.finish ([] ++ [abortWord ErrorKind.invalidFileSize.code])
      (.error .invalidFileSize saveSizeWord s.bufLen)) := by
  simp only [exec, execDecodeSlot, if_pos h, if_neg hl, State.raiseAbort_eq]

theorem exec_decodeSave_ok {s : State} {inc : Bool} {words : List Word} {n : Nat}
    (hl : s.bufLen = saveSizeWord)
    (hd : decodeSlots s.pal s.saveBuffer inc (List.range Config.numSlots) 0 = (words, .ok n)) :
    exec (.decodeSave inc) s = .next (s.finish words (.ok (BitVec.ofNat 32 n))) := by
  simp only [exec, execDecodeSave, if_pos hl, hd, State.complete_eq]

theorem exec_decodeSave_error {s : State} {inc : Bool} {words : List Word} {f : PixelFailure}
    (hl : s.bufLen = saveSizeWord)
    (hd : decodeSlots s.pal s.saveBuffer inc (List.range Config.numSlots) 0 = (words, .error f)) :
    exec (.decodeSave inc) s = .next (s.finish (words ++ [abortWord f.kind.code])
      (.error f.kind (entryInfo f.entry) (positionInfo f.slot f.row f.col))) := by
  simp only [exec, execDecodeSave, if_pos hl, hd, State.raiseAbort_eq]

theorem exec_decodeSave_badLength {s : State} (inc : Bool) (hl : s.bufLen ≠ saveSizeWord) :
    exec (.decodeSave inc) s = .next (s.finish ([] ++ [abortWord ErrorKind.invalidFileSize.code])
      (.error .invalidFileSize saveSizeWord s.bufLen)) := by
  simp only [exec, execDecodeSave, if_neg hl, State.raiseAbort_eq]

theorem exec_checkActive {s : State} {slot : BitVec 5} (h : slotLegal slot)
    (hl : s.bufLen = saveSizeWord) :
    exec (.checkActive slot) s = .next
      (s.finish [] (.ok (if active s.saveBuffer slot.toNat then 1#32 else 0#32))) := by
  simp only [exec, execCheckActive, if_pos h, if_pos hl, State.complete_eq]

theorem exec_checkActive_badLength {s : State} {slot : BitVec 5} (h : slotLegal slot)
    (hl : s.bufLen ≠ saveSizeWord) :
    exec (.checkActive slot) s = .next
      (s.finish [] (.error .invalidFileSize saveSizeWord s.bufLen)) := by
  simp only [exec, execCheckActive, if_pos h, if_neg hl, State.raiseQuiet_eq]

theorem exec_checkActive_illegal {slot : BitVec 5} (s : State) (h : ¬ slotLegal slot) :
    exec (.checkActive slot) s =
      .next (s.finish [] (.error .illegalCommand (encode (.checkActive slot)) 0#32)) := by
  simp only [exec, execCheckActive, if_neg h, State.raiseIllegal_eq]

theorem exec_unpack (s : State) (lo hi : Byte) :
    exec (.unpack lo hi) s = .next (s.finish [] (.ok (packLanes (unpack lo hi)))) := rfl

/-! ## The active flag -/

/-- A deleted slot's flag is -1 as a signed byte (10_state.md R27). -/
theorem toInt_eq_neg_one_iff (b : Byte) : b.toInt = -1 ↔ b = Config.flagDeleted :=
  ⟨fun h => BitVec.eq_of_toInt_eq h, fun h => h ▸ rfl⟩

/-- The answer of CHECK_ACTIVE, by the flag as a signed byte. -/
theorem activeResult_eq (m : Memory) (s : Nat) :
    (if active m s then 1#32 else 0#32) =
      if (m.read (0x11B2 + s)).toInt = -1 then 0#32 else 1#32 := by
  simp only [active, flagOffset, toInt_eq_neg_one_iff, bne_iff_ne, ite_not]

/-! ## The words that close a command's stream -/

/-- A word's tag is its number's upper four bits. -/
theorem tag_of_toNat {w : Word} {tag : BitVec 4} (h : w.toNat / 2 ^ 28 = tag.toNat) :
    w.extractLsb' 28 4 = tag := by
  apply BitVec.eq_of_toNat_eq
  rw [field_toNat, h, Nat.mod_eq_of_lt tag.isLt]

theorem hdrWord_tag (slot : BitVec 5) (n : BitVec 8) : (hdrWord slot n).extractLsb' 28 4 = 0x1#4 :=
  tag_of_toNat (by rw [hdrWord_toNat, BitVec.toNat_ofNat]; omega)

theorem pixWord_tag (c : Rgb) : (pixWord c).extractLsb' 28 4 = 0x2#4 :=
  tag_of_toNat (by rw [pixWord_toNat, BitVec.toNat_ofNat]; omega)

theorem pvWord_tag (v : Pixel) : (pvWord v).extractLsb' 28 4 = 0x3#4 :=
  tag_of_toNat (by have := pixel_toNat_lt v; rw [pvWord_toNat, BitVec.toNat_ofNat]; omega)

theorem endWord_tag (k : BitVec 8) : (endWord k).extractLsb' 28 4 = 0xE#4 :=
  tag_of_toNat (by rw [endWord_toNat, BitVec.toNat_ofNat]; omega)

theorem abortWord_tag (e : BitVec 4) : (abortWord e).extractLsb' 28 4 = 0xF#4 :=
  tag_of_toNat (by rw [abortWord_toNat, BitVec.toNat_ofNat]; omega)

@[simp] theorem closesStream_hdrWord (slot : BitVec 5) (n : BitVec 8) :
    closesStream (hdrWord slot n) = false := by
  rw [closesStream, hdrWord_tag]; rfl

@[simp] theorem closesStream_pixWord (c : Rgb) : closesStream (pixWord c) = false := by
  rw [closesStream, pixWord_tag]; rfl

@[simp] theorem closesStream_pvWord (v : Pixel) : closesStream (pvWord v) = false := by
  rw [closesStream, pvWord_tag]; rfl

/-- The words stand inside a stream: none is END or ABORT. -/
def OpenWords (words : List Word) : Prop := ∀ w ∈ words, closesStream w = false

theorem openWords_nil : OpenWords [] := List.forall_mem_nil _

theorem openWords_cons {w : Word} {words : List Word} (hw : closesStream w = false)
    (h : OpenWords words) : OpenWords (w :: words) :=
  List.forall_mem_cons.2 ⟨hw, h⟩

theorem openWords_append {front words : List Word} (hf : OpenWords front) (h : OpenWords words) :
    OpenWords (front ++ words) :=
  List.forall_mem_append.2 ⟨hf, h⟩

/-- DECODE_SLOT's words are open words and END. -/
theorem slotWords_eq (m : Memory) (slot : BitVec 5) :
    ∃ front, OpenWords front ∧ slotWords m slot = front ++ [endWord 1#8] := by
  refine ⟨_, openWords_cons (closesStream_hdrWord slot 1#8) ?_, rfl⟩
  intro w hw
  obtain ⟨p, -, rfl⟩ := List.mem_map.1 hw
  exact closesStream_pvWord _

/-- The words of a run of pixels are open, whether it fails or not. -/
theorem mapPixels_open (pal : Palette) (m : Memory) (slot : Nat) (ps : List (Nat × Nat)) :
    OpenWords (mapPixels pal m slot ps).1 := by
  induction ps with
  | nil => exact openWords_nil
  | cons p rest ih =>
    obtain ⟨y, c⟩ := p
    rw [mapPixels]
    split
    · exact openWords_cons (closesStream_pixWord _) ih
    · exact openWords_nil

/-- The loop over slots gives open words and END, or open words and a failure. -/
theorem decodeSlots_cases (pal : Palette) (m : Memory) (inc : Bool) (slots : List Nat) (n : Nat) :
    ∃ front, OpenWords front ∧
      ((∃ k count, decodeSlots pal m inc slots n = (front ++ [endWord k], .ok count)) ∨
        ∃ failure, decodeSlots pal m inc slots n = (front, .error failure)) := by
  induction slots generalizing n with
  | nil => exact ⟨[], openWords_nil, .inl ⟨_, n, rfl⟩⟩
  | cons slot rest ih =>
    rw [decodeSlots]
    split
    · exact ih n
    · rcases hm : mapPixels pal m slot rowMajor with ⟨words, failure⟩
      have hopen := openWords_cons (closesStream_hdrWord (BitVec.ofNat 5 slot) (BitVec.ofNat 8 (n + 1)))
        (by simpa [hm] using mapPixels_open pal m slot rowMajor : OpenWords words)
      cases failure with
      | none =>
        obtain ⟨front, hfront, ⟨k, count, h⟩ | ⟨failure, h⟩⟩ := ih (n + 1)
        · exact ⟨_, openWords_append hopen hfront, .inl ⟨k, count, by simp [h]⟩⟩
        · exact ⟨_, openWords_append hopen hfront, .inr ⟨failure, by simp [h]⟩⟩
      | some failure => exact ⟨_, hopen, .inr ⟨failure, rfl⟩⟩

/-! ## Which commands emit -/

/-- A command that emits nothing ends with no word. -/
theorem exec_quiet {i : Instr} (s : State) (hi : emits i = false) :
    ∃ (pal : Palette) (e : CmdEnd), exec i s = .next ({ s with pal := pal }.finish [] e) := by
  cases i with
  | preset pid =>
    by_cases h : presetLegal pid
    · exact ⟨_, _, exec_preset s h⟩
    · exact ⟨s.pal, _, exec_preset_illegal s h⟩
  | lookup v =>
    rcases hm : mapValue s.pal v with ⟨kind, k⟩ | c
    · exact ⟨s.pal, _, exec_lookup_error hm⟩
    · exact ⟨s.pal, _, exec_lookup_ok hm⟩
  | checkActive slot =>
    by_cases h : slotLegal slot
    · by_cases hl : s.bufLen = saveSizeWord
      · exact ⟨s.pal, _, exec_checkActive h hl⟩
      · exact ⟨s.pal, _, exec_checkActive_badLength h hl⟩
    · exact ⟨s.pal, _, exec_checkActive_illegal s h⟩
  | unpack low high => exact ⟨s.pal, _, exec_unpack s low high⟩
  | decodeSlot | decodeSave => simp [emits] at hi

/-- An emitting command, at operands in range, ends with open words and END, or open words and ABORT. -/
theorem exec_emits {i : Instr} (s : State) (hw : i.wellFormed = true) (hi : emits i = true) :
    ∃ front, OpenWords front ∧
      ((∃ k v, exec i s = .next (s.finish (front ++ [endWord k]) (.ok v))) ∨
        ∃ kind i0 i1, exec i s =
          .next (s.finish (front ++ [abortWord kind.code]) (.error kind i0 i1))) := by
  cases i with
  | decodeSlot slot =>
    have h : slotLegal slot := of_decide_eq_true hw
    by_cases hl : s.bufLen = saveSizeWord
    · obtain ⟨front, hf, hs⟩ := slotWords_eq s.saveBuffer slot
      exact ⟨front, hf, .inl ⟨_, _, hs ▸ exec_decodeSlot h hl⟩⟩
    · exact ⟨[], openWords_nil, .inr ⟨_, _, _, exec_decodeSlot_badLength h hl⟩⟩
  | decodeSave inc =>
    by_cases hl : s.bufLen = saveSizeWord
    · obtain ⟨front, hf, ⟨k, count, hd⟩ | ⟨failure, hd⟩⟩ :=
        decodeSlots_cases s.pal s.saveBuffer inc (List.range Config.numSlots) 0
      · exact ⟨front, hf, .inl ⟨_, _, exec_decodeSave_ok hl hd⟩⟩
      · exact ⟨front, hf, .inr ⟨_, _, _, exec_decodeSave_error hl hd⟩⟩
    · exact ⟨[], openWords_nil, .inr ⟨_, _, _, exec_decodeSave_badLength inc hl⟩⟩
  | preset | lookup | checkActive | unpack => simp [emits] at hi

/-! ## Placing a command -/

theorem perform_of_decode {w : Word} {i : Instr} (s : State) (h : decode w = .ok i) :
    perform w s = exec i s := by
  simp [perform, h]

theorem withFetchWord_toNat (s : State) (w : Word) : s.withFetchWord 32 w.toNat = placeCommand s w := by
  rw [State.withFetchWord, Nat.mod_eq_of_lt w.isLt, BitVec.ofNat_toNat, BitVec.setWidth_eq]

theorem placeCommand_hostMoves (s : State) (w : Word) :
    (placeCommand s w).hostMoves = s.hostMoves ∨ (placeCommand s w).hostMoves = .wait :: s.hostMoves := by
  rcases hm : s.hostMoves with _ | ⟨move, rest⟩ <;> simp [placeCommand, hm]

theorem blockNext_placeCommand (s : State) (w : Word) : BlockNext (placeCommand s w) := by
  rcases hm : s.hostMoves with _ | ⟨move, rest⟩ <;> simp [BlockNext, placeCommand, hm]

/-- A placed command is the one the next step performs (log 5). -/
theorem step_placeCommand {w : Word} {i : Instr} (s : State) (h : decode w = .ok i) :
    step (placeCommand s w) = exec i (placeCommand s w) :=
  (step_of_blockNext (blockNext_placeCommand s w) rfl).trans (perform_of_decode _ h)

/-! ## The obligations -/

/-- Settles O13: the write is dropped while BUSY, else it stores `entryOfWord v` in entry `k`. -/
theorem palWriteIsWarl : Obligations.PalWriteIsWarl := by
  intro s k v rest hm
  have hstep : step s = .next { s.writePal k v with hostMoves := rest } := by
    rw [step_of_write (off := regOffset (.pal k)) hm (offsetLegal_regOffset _), writeRegister_pal]
  refine ⟨fun hb => ?_, fun hb => ⟨s.pal.set k.val (entryOfWord v) k.isLt, ?_,
    fun j hj => palette_get_set_other _ _ hj, ?_⟩⟩
  · rw [hstep, writePal_busy k v hb]; rfl
  · rw [hstep, writePal_idle k v hb]
  · rw [palette_get_set_self]
    obtain ⟨hr, hg, hb⟩ := entryOfWord_color_toNat v
    exact ⟨hr, hg, hb, entryOfWord_st_toNat v, palWord_entryOfWord_toNat v⟩

/-- Settles O14, clause by clause from the rules of a register access. -/
theorem reservedReadOnlyAndMisalignedAccesses : Obligations.ReservedReadOnlyAndMisalignedAccesses := by
  refine ⟨fun s off v rest hl hoff hm => ?_, fun s off hoff => readRegister_reserved s (regAt_reserved hoff),
    fun s off rest hl hm => step_of_read hm hl, fun s off v rest hw h4 hm => ?_⟩
  · rw [step_of_write hm hl, writeRegister_ignored s v hoff]
  · rcases hm with hm | hm <;> rw [step_of_hostMove hm] <;> exact registerAccess_misaligned hw h4 _

/-- Settles O41: the end of a command is `State.finish`, with a result or with an error. -/
theorem everyCommandEndsWithItsFrame : Obligations.EveryCommandEndsWithItsFrame := by
  intro i s
  obtain ⟨pal, words, e, hexec, hpal⟩ := exec_cases i s
  refine ⟨_, words, hexec, ?_⟩
  cases e with
  | ok value => simpa using hpal
  | error kind i0 i1 => simpa using hpal

/-- Settles O43: a quiet command appends nothing, an emitting one open words and one closing word. -/
theorem onlyDecodeCommandsEmit : Obligations.OnlyDecodeCommandsEmit := by
  intro i s hw
  cases hi : emits i with
  | false =>
    obtain ⟨pal, e, hexec⟩ := exec_quiet s hi
    refine ⟨_, [], hexec, ?_, fun _ => rfl, fun h => absurd h (by decide)⟩
    cases e <;> rfl
  | true =>
    obtain ⟨front, hfront, ⟨k, v, hexec⟩ | ⟨kind, i0, i1, hexec⟩⟩ := exec_emits s hw hi
    · exact ⟨_, _, hexec, rfl, fun h => absurd h (by decide),
        fun _ => ⟨front, _, rfl, endWord_tag k, hfront⟩⟩
    · exact ⟨_, _, hexec, rfl, fun h => absurd h (by decide),
        fun _ => ⟨front, _, rfl, abortWord_tag kind.code, hfront⟩⟩

/-- Settles O7: the block's turn performs the pending word. -/
theorem stepPerformsDecodedCommand : Obligations.StepPerformsDecodedCommand := by
  intro s w i hnext hpending hdecode
  rw [step_of_blockNext hnext hpending, perform_of_decode s hdecode]

/-- Settles O8: `withFetchWord` is an issue with the block's turn next. -/
theorem placedCommandRunsNext : Obligations.PlacedCommandRunsNext := by
  intro s w i hdecode
  rw [withFetchWord_toNat]
  exact ⟨step_placeCommand s hdecode, rfl, placeCommand_hostMoves s w⟩

/-- Settles O11 by the write rule of CMD. -/
theorem cmdWriteIssuesOrDrops : Obligations.CmdWriteIssuesOrDrops := by
  intro s w rest hm
  have hstep := step_of_write hm (offsetLegal_regOffset .cmd)
  rw [writeRegister_cmd] at hstep
  refine ⟨fun hb => ?_, fun hb => ?_, readRegister_regOffset s .cmd⟩
  · rw [hstep, writeCmd_busy w hb]; rfl
  · rw [hstep, writeCmd_idle w hb]; rfl

/-- Settles O12 by the write rule of BUF_LEN. -/
theorem bufLenWriteStoresOrDrops : Obligations.BufLenWriteStoresOrDrops := by
  intro s v rest hm
  have hstep := step_of_write hm (offsetLegal_regOffset .bufLen)
  rw [writeRegister_bufLen] at hstep
  refine ⟨fun hb => ?_, fun hb => ?_⟩
  · rw [hstep, writeBufLen_busy v hb]; rfl
  · rw [hstep, writeBufLen_idle v hb]

/-- Settles O15: the register at 0x04 is STATUS. -/
theorem statusReadsItsFields : Obligations.StatusReadsItsFields := fun s =>
  (congrArg BitVec.toNat (readRegister_regOffset s .status)).trans s.status.word_toNat

/-- Settles O16: the reads by the register map, the reset column, and PAL from preset 0. -/
theorem registerMapReads : Obligations.RegisterMapReads := by
  refine ⟨fun s => ⟨readRegister_regOffset s .cmd, readRegister_regOffset s .bufLen,
    statusReadsItsFields s, readRegister_regOffset s .result, readRegister_regOffset s .errInfo0,
    readRegister_regOffset s .errInfo1, fun k => readRegister_regOffset s (.pal k)⟩,
    fun off _ h4 h => reset_readRegister_eq_zero h4 h, fun k => ?_⟩
  calc State.reset.readRegister (regOffset (.pal k))
      = palWord ((defaultPalette configRom).get k) := readRegister_regOffset State.reset (.pal k)
    _ = palWord ⟨Config.presetRom 0 k, .valid⟩ := by rw [defaultPalette_get, configRom_get]

/-- Settles O31: the two ends of CHECK_ACTIVE for a slot in range. -/
theorem checkActiveReadsFlag : Obligations.CheckActiveReadsFlag := by
  intro s slot hslot
  refine ⟨fun hl => ?_, fun hl => ?_⟩
  · rw [exec_checkActive hslot hl, State.finish_quiet_ok, activeResult_eq]
  · rw [exec_checkActive_badLength hslot hl, State.finish_quiet_error]; rfl

end Sys2Proof.Machine
end

section
/-! Proofs of the statements of 20_memory.md: what one step can do, who changes the save buffer, what a
pending command will see, and which bytes of the buffer a command's end depends on. -/

namespace Sys2Proof.Machine
open Sys2Proof

/-! ## What one step can do -/

/-- A register access that answers a next state kept the bus contract (10_state.md R22, R23). -/
theorem registerAccess_next {off : Nat} {s' t : State} (h : registerAccess off s' = .next t) :
    offsetLegal off ∧ t = s' := by
  unfold registerAccess at h
  split at h
  · cases h
  · next hw =>
    split at h
    · cases h
    · next h4 =>
      cases h
      exact ⟨⟨Nat.not_le.1 hw, not_not.1 h4⟩, rfl⟩

/-- A byte store that answers a next state is in range and not while BUSY (20_memory.md R60, R63). -/
theorem storeByte_next {a : Nat} {b : Byte} {s t : State} (h : storeByte a b s = .next t) :
    a < Config.saveSize ∧ s.status.busy = false ∧ t = { s with saveBuffer := s.saveBuffer.write a b } := by
  unfold storeByte at h
  split at h
  · cases h
  · next ha =>
    split at h
    · cases h
    · next hb =>
      cases h
      exact ⟨Nat.not_le.1 ha, Bool.eq_false_iff.2 hb, rfl⟩

/-- The ways a step can lead from `s` to `t`, one for each agent's move, with what it requires. -/
inductive StepEffect (s t : State) : Prop
  | perform (w : Word) (turn : BlockNext s) (pending : s.pending = some w) (result : perform w s = .next t)
  | idle (moves : s.hostMoves = []) (pending : s.pending = none) (result : t = s)
  | poll (rest : List HostMove) (moves : s.hostMoves = .wait :: rest) (pending : s.pending = none)
      (result : t = s.poll rest)
  | write (off : Nat) (v : Word) (rest : List HostMove) (moves : s.hostMoves = .write off v :: rest)
      (legal : offsetLegal off) (result : t = { s.writeRegister off v with hostMoves := rest })
  | read (off : Nat) (rest : List HostMove) (moves : s.hostMoves = .read off :: rest)
      (legal : offsetLegal off)
      (result : t = { s with readData := s.readRegister off, hostMoves := rest })
  | store (a : Nat) (b : Byte) (rest : List HostMove) (moves : s.hostMoves = .storeByte a b :: rest)
      (inRange : a < Config.saveSize) (notBusy : s.status.busy = false)
      (result : t = { s with saveBuffer := s.saveBuffer.write a b, hostMoves := rest })
  | reset (rest : List HostMove) (moves : s.hostMoves = .reset :: rest)
      (result : t = { s.resetBlock with hostMoves := rest })

/-- A step that answers a next state is one of these moves. -/
theorem step_effect {s t : State} (h : step s = .next t) : StepEffect s t := by
  rcases hm : s.hostMoves with _ | ⟨move, rest⟩
  · rcases hp : s.pending with _ | w
    · simp only [step, advance, hm, blockTurn, hp] at h
      cases h
      exact .idle hm hp rfl
    · exact .perform w (.inl hm) hp (step_of_blockNext (.inl hm) hp ▸ h)
  · have hstep := h
    rw [step_of_hostMove hm] at hstep
    cases move with
    | write off v =>
      obtain ⟨hl, ht⟩ := registerAccess_next hstep
      exact .write off v rest hm hl ht
    | read off =>
      obtain ⟨hl, ht⟩ := registerAccess_next hstep
      exact .read off rest hm hl ht
    | wait =>
      rcases hp : s.pending with _ | w
      · simp only [hostTurn, waitTurn, hp] at hstep
        cases hstep
        exact .poll rest hm hp rfl
      · exact .perform w (.inr ⟨rest, hm⟩) hp (step_of_blockNext (.inr ⟨rest, hm⟩) hp ▸ h)
    | storeByte a b =>
      obtain ⟨ha, hb, ht⟩ := storeByte_next hstep
      exact .store a b rest hm ha hb ht
    | reset =>
      cases hstep
      exact .reset rest hm rfl

/-! ## The two inputs the block only reads: the save buffer and the ROM -/

@[simp] theorem State.finish_saveBuffer (s : State) (words : List Word) (e : CmdEnd) :
    (s.finish words e).saveBuffer = s.saveBuffer := by
  cases e <;> rfl

@[simp] theorem State.finish_presetRom (s : State) (words : List Word) (e : CmdEnd) :
    (s.finish words e).presetRom = s.presetRom := by
  cases e <;> rfl

/-- A perform step changes neither input (20_memory.md R62; 10_state.md R36). -/
theorem perform_keeps_inputs {w : Word} {s t : State} (h : perform w s = .next t) :
    t.saveBuffer = s.saveBuffer ∧ t.presetRom = s.presetRom := by
  rcases perform_cases w s with ⟨i, -, hi⟩ | ⟨-, hi⟩
  · obtain ⟨pal, words, e, he, -⟩ := exec_cases i s
    cases h.symm.trans (hi.trans he)
    simp
  · cases h.symm.trans hi
    simp

/-- A register write changes neither input. -/
theorem writeRegister_keeps_inputs (s : State) (off : Nat) (v : Word) :
    (s.writeRegister off v).saveBuffer = s.saveBuffer ∧
      (s.writeRegister off v).presetRom = s.presetRom := by
  rcases writeRegister_cases s off v with h | ⟨-, h⟩ | ⟨-, h | h | ⟨k, h⟩⟩ <;> simp [h]

/-- A poll changes neither input. -/
theorem poll_keeps_inputs (s : State) (rest : List HostMove) :
    (s.poll rest).saveBuffer = s.saveBuffer ∧ (s.poll rest).presetRom = s.presetRom := by
  unfold State.poll
  split <;> exact ⟨rfl, rfl⟩

/-! ## Register writes while BUSY -/

/-- While BUSY a register write is ignored or dropped, so it changes no field but STATUS. -/
theorem writeRegister_busy {s : State} (off : Nat) (v : Word) (hb : s.status.busy = true) :
    ∃ st, s.writeRegister off v = { s with status := st } := by
  rcases writeRegister_cases s off v with h | ⟨-, h⟩ | ⟨hidle, -⟩
  · exact ⟨s.status, h⟩
  · exact ⟨s.status.dropped, h⟩
  · simp [hb] at hidle

/-- While BUSY a write to CMD, BUF_LEN or PAL is dropped (10_state.md R24, R28, R35). -/
theorem writeRegister_dropped {s : State} {off : Nat} (v : Word) (hb : s.status.busy = true)
    (hoff : off ∈ [0x00, 0x08, 0x20, 0x24, 0x28, 0x2C]) : s.writeRegister off v = s.dropWrite := by
  have hpal (k : Fin Config.palEntries) : s.writeRegister (regOffset (.pal k)) v = s.dropWrite :=
    (writeRegister_pal s k v).trans (writePal_busy k v hb)
  simp only [List.mem_cons, List.not_mem_nil, or_false] at hoff
  rcases hoff with rfl | rfl | rfl | rfl | rfl | rfl
  · exact writeCmd_busy v hb
  · exact writeBufLen_busy v hb
  · exact hpal 0
  · exact hpal 1
  · exact hpal 2
  · exact hpal 3

/-! ## The bytes a command's end depends on -/

/-- The two buffers hold the same byte at every offset the block may read (20_memory.md R69). -/
def SameToBlock (m m' : Memory) : Prop := ∀ a, readByBlock a → m.read a = m'.read a

/-- `rowOffset` in numbers (42_tile_decoder.md R152). -/
theorem rowOffset_eq (s y x : Nat) :
    rowOffset s y x = 0x2000 + s * 0x1000 + 16 * (y / 8 * 16 + x) + 2 * (y % 8) := rfl

/-- A pixel's two plane bytes are tile bytes of its slot (42_tile_decoder.md R152, R154). -/
theorem rowOffset_tileByte {y c : Nat} (s : Nat) (hy : y < 112) (hc : c < 128) :
    tileByte s (rowOffset s y (c / 8)) ∧ tileByte s (rowOffset s y (c / 8) + 1) := by
  simp only [tileByte_iff, rowOffset_eq]
  omega

/-- Buffers that agree on a slot's tile bytes hold the same image (42_tile_decoder.md R157). -/
theorem pixel_eq_of_tile {m m' : Memory} {s : Nat} (h : ∀ a, tileByte s a → m.read a = m'.read a) :
    ∀ p ∈ rowMajor, pixel m s p.1 p.2 = pixel m' s p.1 p.2 := by
  rintro ⟨y, c⟩ hp
  obtain ⟨hy, hc⟩ := mem_rowMajor.1 hp
  obtain ⟨hlow, hhigh⟩ := rowOffset_tileByte s hy hc
  exact pixel_congr (h _ hlow) (h _ hhigh)

/-- Buffers with the same image in a slot give the same DECODE_SLOT words. -/
theorem slotWords_congr {m m' : Memory} {slot : BitVec 5}
    (h : ∀ p ∈ rowMajor, pixel m slot.toNat p.1 p.2 = pixel m' slot.toNat p.1 p.2) :
    slotWords m slot = slotWords m' slot := by
  rw [slotWords, slotWords, List.map_congr_left fun p hp => congrArg pvWord (h p hp)]

theorem mapPixels_congr (pal : Palette) {m m' : Memory} {slot : Nat} {ps : List (Nat × Nat)}
    (h : ∀ p ∈ ps, pixel m slot p.1 p.2 = pixel m' slot p.1 p.2) :
    mapPixels pal m slot ps = mapPixels pal m' slot ps := by
  induction ps with
  | nil => rfl
  | cons p rest ih =>
    obtain ⟨y, c⟩ := p
    obtain ⟨hp, hrest⟩ := List.forall_mem_cons.1 h
    simp only [mapPixels, hp, ih hrest]

/-- Buffers with the same flag and image in every slot of a list give the same loop over it. -/
theorem decodeSlots_congr (pal : Palette) {m m' : Memory} (inc : Bool) {slots : List Nat} (n : Nat)
    (hflag : ∀ slot ∈ slots, active m slot = active m' slot)
    (himage : ∀ slot ∈ slots, ∀ p ∈ rowMajor, pixel m slot p.1 p.2 = pixel m' slot p.1 p.2) :
    decodeSlots pal m inc slots n = decodeSlots pal m' inc slots n := by
  induction slots generalizing n with
  | nil => rfl
  | cons slot rest ih =>
    obtain ⟨hf, hfrest⟩ := List.forall_mem_cons.1 hflag
    obtain ⟨hi, hirest⟩ := List.forall_mem_cons.1 himage
    simp only [decodeSlots, hf, mapPixels_congr pal hi, ih _ hfrest hirest]

theorem SameToBlock.active_eq {m m' : Memory} (h : SameToBlock m m') {slot : Nat} (hs : slot < 30) :
    active m slot = active m' slot := by
  have hread : readByBlock (flagOffset slot) :=
    .inl ⟨Nat.le_add_right _ _, Nat.add_lt_add_left hs _⟩
  rw [active, active, h _ hread]

theorem SameToBlock.pixel_eq {m m' : Memory} (h : SameToBlock m m') {slot : Nat} (hs : slot < 30) :
    ∀ p ∈ rowMajor, pixel m slot p.1 p.2 = pixel m' slot p.1 p.2 :=
  pixel_eq_of_tile fun a ha => h a (.inr ⟨slot, hs, ha⟩)

theorem SameToBlock.decodeSlots_eq {m m' : Memory} (h : SameToBlock m m') (pal : Palette) (inc : Bool) :
    decodeSlots pal m inc (List.range Config.numSlots) 0 =
      decodeSlots pal m' inc (List.range Config.numSlots) 0 :=
  decodeSlots_congr pal inc 0 (fun _ hs => h.active_eq (List.mem_range.1 hs))
    fun _ hs => h.pixel_eq (List.mem_range.1 hs)

theorem exec_decodeSlot_illegal {slot : BitVec 5} (s : State) (h : ¬ slotLegal slot) :
    exec (.decodeSlot slot) s =
      .next (s.finish [] (.error .illegalCommand (encode (.decodeSlot slot)) 0#32)) := by
  simp only [exec, execDecodeSlot, if_neg h, State.raiseIllegal_eq]

/-! ## The obligations -/

/-- Settles O19 by the laws of the buffer's write. -/
theorem hostStoresOneByte : Obligations.HostStoresOneByte := by
  intro s a b rest hm
  have hstep : step s = storeByte a b { s with hostMoves := rest } := step_of_hostMove hm
  refine ⟨fun ha hb hwf => ⟨s.saveBuffer.write a b, ?_, Memory.wf_write _ a b ha hwf,
    Memory.read_write_same (lo := 0) _ a b hwf, fun a' h => Memory.read_write_other _ a a' b h⟩,
    fun ha hb => ?_, fun ha => ?_⟩
  · exact hstep.trans (storeByte_legal b ha hb)
  · simp [hstep, storeByte, Nat.not_le.2 ha, hb]
  · simp [hstep, storeByte, ha]

/-- Settles O39: by command and end, the same end is reached on both buffers. -/
theorem unreadBytesHaveNoEffect : Obligations.UnreadBytesHaveNoEffect := by
  intro i s m h
  have hsame : SameToBlock m s.saveBuffer := h
  cases i with
  | preset pid =>
    by_cases hp : presetLegal pid
    · exact ⟨_, exec_preset s hp, exec_preset _ hp⟩
    · exact ⟨_, exec_preset_illegal s hp, exec_preset_illegal _ hp⟩
  | lookup v =>
    rcases hv : mapValue s.pal v with ⟨kind, k⟩ | c
    · exact ⟨_, exec_lookup_error hv, exec_lookup_error hv⟩
    · exact ⟨_, exec_lookup_ok hv, exec_lookup_ok hv⟩
  | unpack lo hi => exact ⟨_, exec_unpack s lo hi, exec_unpack _ lo hi⟩
  | checkActive slot =>
    by_cases hs : slotLegal slot
    · by_cases hl : s.bufLen = saveSizeWord
      · exact ⟨_, exec_checkActive hs hl,
          hsame.active_eq hs ▸ exec_checkActive (s := { s with saveBuffer := m }) hs hl⟩
      · exact ⟨_, exec_checkActive_badLength hs hl, exec_checkActive_badLength hs hl⟩
    · exact ⟨_, exec_checkActive_illegal s hs, exec_checkActive_illegal _ hs⟩
  | decodeSlot slot =>
    by_cases hs : slotLegal slot
    · by_cases hl : s.bufLen = saveSizeWord
      · exact ⟨_, exec_decodeSlot hs hl,
          slotWords_congr (hsame.pixel_eq hs) ▸ exec_decodeSlot (s := { s with saveBuffer := m }) hs hl⟩
      · exact ⟨_, exec_decodeSlot_badLength hs hl, exec_decodeSlot_badLength hs hl⟩
    · exact ⟨_, exec_decodeSlot_illegal s hs, exec_decodeSlot_illegal _ hs⟩
  | decodeSave inc =>
    by_cases hl : s.bufLen = saveSizeWord
    · have hloop := hsame.decodeSlots_eq s.pal inc
      rcases hd : decodeSlots s.pal s.saveBuffer inc (List.range Config.numSlots) 0 with ⟨words, f | n⟩
      · exact ⟨_, exec_decodeSave_error hl hd, exec_decodeSave_error hl (hloop.trans hd)⟩
      · exact ⟨_, exec_decodeSave_ok hl hd, exec_decodeSave_ok hl (hloop.trans hd)⟩
    · exact ⟨_, exec_decodeSave_badLength inc hl, exec_decodeSave_badLength inc hl⟩

/-- Settles O48: of all a step can do, only a byte store touches the buffer, and nothing the ROM. -/
theorem onlyHostStoresChangeTheBuffer : Obligations.OnlyHostStoresChangeTheBuffer := by
  intro s t h
  have of_kept (hk : t.saveBuffer = s.saveBuffer ∧ t.presetRom = s.presetRom) :
      t.presetRom = s.presetRom ∧
        (t.saveBuffer ≠ s.saveBuffer → ∃ a b rest, s.hostMoves = .storeByte a b :: rest) :=
    ⟨hk.2, fun hne => absurd hk.1 hne⟩
  cases step_effect h with
  | perform w _ _ hw => exact of_kept (perform_keeps_inputs hw)
  | idle _ _ ht => exact of_kept (ht ▸ ⟨rfl, rfl⟩)
  | poll rest _ _ ht => exact of_kept (ht ▸ poll_keeps_inputs s rest)
  | write off v _ _ _ ht => exact of_kept (ht ▸ writeRegister_keeps_inputs s off v)
  | read _ _ _ _ ht => exact of_kept (ht ▸ ⟨rfl, rfl⟩)
  | store a b rest hm _ _ ht => exact ⟨ht ▸ rfl, fun _ => ⟨a, b, rest, hm⟩⟩
  | reset _ _ ht => exact of_kept (ht ▸ ⟨rfl, rfl⟩)

/-- Settles O49: while BUSY a write is dropped, a read changes nothing of the block's, a byte store is
refused, and the block's own turn and reset are set aside. -/
theorem pendingCommandIsIsolated : Obligations.PendingCommandIsIsolated := by
  intro s t w hinv hp hreset hturn h
  have hcmd : s.cmd = w := hinv.pending_cmd w hp
  have hb : s.status.busy = true := by rw [hinv.busy_pending, hp]; rfl
  cases step_effect h with
  | perform _ hnext _ _ => exact absurd hnext hturn
  | idle hm _ _ => exact absurd (.inl hm) hturn
  | poll rest hm _ _ => exact absurd (.inr ⟨rest, hm⟩) hturn
  | write off v rest hm _ ht =>
    have hovr : ∀ off' v' rest', s.hostMoves = .write off' v' :: rest' →
        off' ∈ [0x00, 0x08, 0x20, 0x24, 0x28, 0x2C] → t.status.ovr = true := by
      intro off' v' rest' hm' hoff
      cases hm.symm.trans hm'
      rw [ht, writeRegister_dropped v hb hoff]; rfl
    obtain ⟨st, hw⟩ := writeRegister_busy off v hb
    rw [hw] at ht
    subst ht
    exact ⟨hp, hcmd, rfl, rfl, rfl, rfl, rfl, hovr⟩
  | read off rest hm _ ht =>
    subst ht
    exact ⟨hp, hcmd, rfl, rfl, rfl, rfl, rfl, by simp [hm]⟩
  | store _ _ _ _ _ hidle _ => simp [hb] at hidle
  | reset rest hm _ => exact absurd hm (hreset rest)

end Sys2Proof.Machine
end

section
/-! Proofs of the statements of 30_encoding.md: a word's masks and shifted fields as numbers, which words
the decoder takes and what it makes of them, the stream words, and the assembler's lines. -/

namespace Sys2Proof.Machine
open Sys2Proof

/-! ## Words as shifted fields -/

theorem toNat_ofNat_of_lt {len n : Nat} (h : n < 2 ^ len) : (BitVec.ofNat len n).toNat = n := by
  rw [BitVec.toNat_ofNat, Nat.mod_eq_of_lt h]

/-- Fields at different places of a word add up. -/
theorem or_toNat {x y : Word} (k : Nat) (hx : 2 ^ k ∣ x.toNat) (hy : y.toNat < 2 ^ k) :
    (x ||| y).toNat = x.toNat + y.toNat := by
  obtain ⟨a, ha⟩ := hx
  rw [BitVec.toNat_or, ha, Nat.two_pow_add_eq_or_of_lt hy]

theorem eq_or_of_toNat {w x y : Word} (k : Nat) (hx : 2 ^ k ∣ x.toNat) (hy : y.toNat < 2 ^ k)
    (h : w.toNat = x.toNat + y.toNat) : w = x ||| y :=
  BitVec.eq_of_toNat_eq (h.trans (or_toNat k hx hy).symm)

/-- A field shifted to its place in a word. -/
theorem shifted_toNat {x : Word} {n k : Nat} (hx : x.toNat = n) (h : n * 2 ^ k < 2 ^ 32) :
    (x <<< k).toNat = n * 2 ^ k := by
  rw [BitVec.toNat_shiftLeft, Nat.shiftLeft_eq, hx, Nat.mod_eq_of_lt h]

/-- A word that is a tag above one field, as spec/ writes the stream formats. -/
theorem eq_tag_or_field {w tag : Word} {len : Nat} {x : BitVec len} (hlen : len ≤ 28)
    (ht : 2 ^ 28 ∣ tag.toNat) (h : w.toNat = tag.toNat + x.toNat) : w = tag ||| x.setWidth 32 := by
  have hx : (x.setWidth 32).toNat = x.toNat := BitVec.toNat_setWidth_of_le (by omega)
  have hlt : x.toNat < 2 ^ 28 := lt_of_lt_of_le x.isLt (Nat.pow_le_pow_right (by decide) hlen)
  exact eq_or_of_toNat 28 ht (hx ▸ hlt) (hx ▸ h)

/-! ## Masks in numbers -/

/-- The mask of `len` bits from bit `start` on. -/
def fieldMask (start len : Nat) : Word := (BitVec.allOnes len).setWidth 32 <<< start

/-- What a field's mask keeps of a word is the field, at its place. -/
theorem and_fieldMask (w : Word) (start len : Nat) :
    w &&& fieldMask start len = (w.extractLsb' start len).setWidth 32 <<< start := by
  apply BitVec.eq_of_getLsbD_eq
  intro i hi
  simp only [fieldMask, BitVec.getLsbD_and, BitVec.getLsbD_shiftLeft, BitVec.getLsbD_setWidth,
    BitVec.getLsbD_allOnes, BitVec.getLsbD_extractLsb']
  by_cases h : start ≤ i
  · rw [Nat.add_sub_cancel' h]; ac_rfl
  · simp [Nat.not_le.1 h]

theorem and_fieldMask_toNat (w : Word) {start len : Nat} (h : start + len ≤ 32) :
    (w &&& fieldMask start len).toNat = w.toNat / 2 ^ start % 2 ^ len * 2 ^ start := by
  have hlt : w.toNat / 2 ^ start % 2 ^ len * 2 ^ start < 2 ^ 32 :=
    calc w.toNat / 2 ^ start % 2 ^ len * 2 ^ start
        < 2 ^ len * 2 ^ start :=
          Nat.mul_lt_mul_of_pos_right (Nat.mod_lt _ (Nat.two_pow_pos _)) (Nat.two_pow_pos _)
      _ = 2 ^ (start + len) := by rw [Nat.add_comm, Nat.pow_add]
      _ ≤ 2 ^ 32 := Nat.pow_le_pow_right (by decide) h
  rw [and_fieldMask]
  exact shifted_toNat ((BitVec.toNat_setWidth_of_le (by omega)).trans (field_toNat ..)) hlt

theorem and_fieldMask_eq_zero_iff (w : Word) {start len : Nat} (h : start + len ≤ 32) :
    w &&& fieldMask start len = 0#32 ↔ w.toNat / 2 ^ start % 2 ^ len = 0 := by
  rw [← BitVec.toNat_inj, and_fieldMask_toNat w h]
  simp

/-- A word under two masks, against a pattern that stands outside the first. -/
theorem and_or_eq_iff {w m n p : Word} (hm : p &&& m = 0#32) :
    w &&& (m ||| n) = p ↔ w &&& m = 0#32 ∧ w &&& n = p := by
  rw [BitVec.and_or_distrib_left]
  constructor
  · intro h
    have h0 : w &&& m = 0#32 := by
      rw [← h, BitVec.and_comm, BitVec.and_or_distrib_left, BitVec.or_eq_zero_iff] at hm
      rw [← hm.1, BitVec.and_comm w m, ← BitVec.and_assoc, BitVec.and_self]
    rw [h0, BitVec.zero_or] at h
    exact ⟨h0, h⟩
  · rintro ⟨h0, hp⟩
    rw [h0, hp, BitVec.zero_or]

/-- Nothing of a word stands from bit `k` on. -/
theorem and_highMask_eq_zero_iff (w : Word) {k : Nat} (hk : k ≤ 32) :
    w &&& fieldMask k (32 - k) = 0#32 ↔ w.toNat < 2 ^ k := by
  have hlt : w.toNat / 2 ^ k < 2 ^ (32 - k) :=
    Nat.div_lt_of_lt_mul (by rw [← Nat.pow_add, Nat.add_sub_cancel' hk]; exact w.isLt)
  rw [and_fieldMask_eq_zero_iff w (by omega), Nat.mod_eq_of_lt hlt,
    Nat.div_eq_zero_iff_lt (Nat.two_pow_pos k)]

/-- The reserved bits of a row, [7:4] and those from bit `k` on, are 0 (30_encoding.md R85). -/
theorem and_reserved_eq_zero_iff {w reserved : Word} (k : Nat) (hk : k ≤ 32)
    (hr : reserved = fieldMask k (32 - k) ||| fieldMask 4 4) :
    w &&& reserved = 0#32 ↔ w.toNat < 2 ^ k ∧ w.toNat / 16 % 16 = 0 := by
  rw [hr, and_or_eq_iff BitVec.zero_and, and_highMask_eq_zero_iff w hk]
  exact and_congr_right fun _ => and_fieldMask_eq_zero_iff w (by decide)

/-- The mask and match of a row of the opcode map: the opcode byte is the opcode `op`, and nothing
stands from bit `k` on (30_encoding.md R84). -/
theorem and_rowMask_eq_iff {w mask : Word} (k op : Nat) (hk : k ≤ 32)
    (hm : mask = fieldMask k (32 - k) ||| fieldMask 0 8)
    (hp : BitVec.ofNat 32 op &&& fieldMask k (32 - k) = 0#32) (hop : op < 16) :
    w &&& mask = BitVec.ofNat 32 op ↔ w.toNat / 16 % 16 = 0 ∧ w.toNat % 16 = op ∧ w.toNat < 2 ^ k := by
  have hbyte : w.toNat % 256 = op ↔ w.toNat / 16 % 16 = 0 ∧ w.toNat % 16 = op := by omega
  rw [hm, and_or_eq_iff hp, and_highMask_eq_zero_iff w hk, ← BitVec.toNat_inj,
    and_fieldMask_toNat w (by decide), BitVec.toNat_ofNat, Nat.mod_eq_of_lt (by omega : op < 2 ^ 32),
    and_comm, ← and_assoc, ← hbyte]
  simp

/-! ## The decoder -/

theorem withReserved_eq_ok_iff (w reserved : Word) (x : Except DecodeError Instr) (i : Instr) :
    withReserved w reserved x = .ok i ↔ w &&& reserved = 0#32 ∧ x = .ok i := by
  unfold withReserved
  split <;> simp [*]

theorem withSlot_eq_ok_iff (w : Word) (f : BitVec 5 → Instr) (i : Instr) :
    withSlot w f = .ok i ↔ slotLegal (slotField w) ∧ i = f (slotField w) := by
  unfold withSlot
  split <;> simp [*, eq_comm]

theorem withPreset_eq_ok_iff (w : Word) (i : Instr) :
    withPreset w = .ok i ↔ presetLegal (pidField w) ∧ i = .preset (pidField w) := by
  unfold withPreset
  split <;> simp [*, eq_comm]

/-! ### The fields in numbers (30_encoding.md R82) -/

theorem opField_toNat (w : Word) : (opField w).toNat = w.toNat % 16 := by
  simp [opField]

theorem pidField_toNat (w : Word) : (pidField w).toNat = w.toNat / 256 % 16 := field_toNat w 8 4

theorem slotField_toNat (w : Word) : (slotField w).toNat = w.toNat / 256 % 32 := field_toNat w 8 5

theorem incField_toNat (w : Word) : (incField w).toNat = w.toNat / 256 % 2 := by
  rw [incField, BitVec.getLsbD, Nat.toNat_testBit]

theorem valueField_toNat (w : Word) : (valueField w).toNat = w.toNat / 256 % 4 := field_toNat w 8 2

theorem loField_toNat (w : Word) : (loField w).toNat = w.toNat / 256 % 256 := field_toNat w 8 8

theorem hiField_toNat (w : Word) : (hiField w).toNat = w.toNat / 65536 % 256 := field_toNat w 16 8

/-! ### Which command a word decodes to -/

/-- A row of the decoder takes the words with nothing in bits [7:4] and from bit `k` on. -/
theorem row_eq_ok_iff {w reserved : Word} (k : Nat) (hk : k ≤ 32)
    (hr : reserved = fieldMask k (32 - k) ||| fieldMask 4 4)
    (x : Except DecodeError Instr) (i : Instr) :
    withReserved w reserved x = .ok i ↔ w.toNat / 16 % 16 = 0 ∧ w.toNat < 2 ^ k ∧ x = .ok i := by
  rw [withReserved_eq_ok_iff, and_reserved_eq_zero_iff k hk hr, and_right_comm, and_comm]

/-- Every command a word can decode to, by its opcode: no bit above its fields, its operand's range
and its operand fields (30_encoding.md R81 to R83). -/
theorem decode_eq_ok_iff (w : Word) (i : Instr) : decode w = .ok i ↔ w.toNat / 16 % 16 = 0 ∧
    ((w.toNat % 16 = 1 ∧ w.toNat < 4096 ∧ presetLegal (pidField w) ∧ i = .preset (pidField w)) ∨
    (w.toNat % 16 = 2 ∧ w.toNat < 8192 ∧ slotLegal (slotField w) ∧ i = .decodeSlot (slotField w)) ∨
    (w.toNat % 16 = 3 ∧ w.toNat < 512 ∧ i = .decodeSave (incField w)) ∨
    (w.toNat % 16 = 4 ∧ w.toNat < 1024 ∧ i = .lookup (valueField w)) ∨
    (w.toNat % 16 = 5 ∧ w.toNat < 8192 ∧ slotLegal (slotField w) ∧ i = .checkActive (slotField w)) ∨
    (w.toNat % 16 = 6 ∧ w.toNat < 16777216 ∧ i = .unpack (loField w) (hiField w))) := by
  simp only [decode, ← BitVec.toNat_inj, opField_toNat, BitVec.toNat_ofNat, Nat.reducePow, Nat.reduceMod]
  split_ifs with h1 h2 h3 h4 h5 h6
  · rw [row_eq_ok_iff 12 (by decide) (by decide), withPreset_eq_ok_iff]; simp [h1]
  · rw [row_eq_ok_iff 13 (by decide) (by decide), withSlot_eq_ok_iff]; simp [h2]
  · rw [row_eq_ok_iff 9 (by decide) (by decide)]; simp [h3, eq_comm]
  · rw [row_eq_ok_iff 10 (by decide) (by decide)]; simp [h4, eq_comm]
  · rw [row_eq_ok_iff 13 (by decide) (by decide), withSlot_eq_ok_iff]; simp [h5]
  · rw [row_eq_ok_iff 24 (by decide) (by decide)]; simp [h6, eq_comm]
  · simp [h1, h2, h3, h4, h5, h6]

/-- The words that decode (30_encoding.md R83 to R85). -/
theorem exists_decode_iff (w : Word) : (∃ i, decode w = .ok i) ↔ w.toNat / 16 % 16 = 0 ∧
    ((w.toNat % 16 = 1 ∧ w.toNat < 4096 ∧ w.toNat / 256 % 16 < 15) ∨
    (w.toNat % 16 = 2 ∧ w.toNat < 8192 ∧ w.toNat / 256 % 32 < 30) ∨
    (w.toNat % 16 = 3 ∧ w.toNat < 512) ∨
    (w.toNat % 16 = 4 ∧ w.toNat < 1024) ∨
    (w.toNat % 16 = 5 ∧ w.toNat < 8192 ∧ w.toNat / 256 % 32 < 30) ∨
    (w.toNat % 16 = 6 ∧ w.toNat < 16777216)) := by
  simp only [decode_eq_ok_iff, presetLegal, pidField_toNat, slotLegal, slotField_toNat, exists_or,
    exists_and_left, exists_eq, and_true]

/-- A word is illegal exactly when it is no command. -/
theorem decode_error_iff (w : Word) : (∃ e, decode w = .error e) ↔ ¬ ∃ i, decode w = .ok i := by
  cases decode w <;> simp

/-- The reserved words of 30_encoding.md R85 are the illegal ones: opcode by opcode, each side says the
same of the other fields. -/
theorem reservedWord_iff (w : Word) : ReservedWord w ↔ ∃ e, decode w = .error e := by
  rw [decode_error_iff, exists_decode_iff, ReservedWord]
  have hop : w.toNat % 16 < 16 := Nat.mod_lt _ (by decide)
  have hpid : w.toNat / 256 % 16 < 16 := Nat.mod_lt _ (by decide)
  simp only [ne_eq, Nat.div_eq_zero_iff]
  interval_cases w.toNat % 16 <;> simp <;> omega

/-- What a word decodes to has the word's number. -/
theorem decode_toNat {w : Word} {i : Instr} (h : decode w = .ok i) : (encode i).toNat = w.toNat := by
  obtain ⟨hhigh, ⟨hop, hw, -, rfl⟩ | ⟨hop, hw, -, rfl⟩ | ⟨hop, hw, rfl⟩ | ⟨hop, hw, rfl⟩ |
    ⟨hop, hw, -, rfl⟩ | ⟨hop, hw, rfl⟩⟩ := (decode_eq_ok_iff w i).1 h
  · rw [encode_preset_toNat, pidField_toNat]; omega
  · rw [encode_decodeSlot_toNat, slotField_toNat]; omega
  · rw [encode_decodeSave_toNat, incField_toNat]; omega
  · rw [encode_lookup_toNat, valueField_toNat]; omega
  · rw [encode_checkActive_toNat, slotField_toNat]; omega
  · rw [encode_unpack_toNat, hiField_toNat, loField_toNat]; omega

/-- What a word decodes to has its operands in range. -/
theorem decode_wellFormed {w : Word} {i : Instr} (h : decode w = .ok i) : i.wellFormed = true := by
  obtain ⟨-, ⟨-, -, hp, rfl⟩ | ⟨-, -, hs, rfl⟩ | ⟨-, -, rfl⟩ | ⟨-, -, rfl⟩ | ⟨-, -, hs, rfl⟩ |
    ⟨-, -, rfl⟩⟩ := (decode_eq_ok_iff w i).1 h
  · exact decide_eq_true hp
  · exact decide_eq_true hs
  · rfl
  · rfl
  · exact decide_eq_true hs
  · rfl

/-! ## The assembler -/

/-- A command word that is its opcode byte and one operand from bit 8 on. -/
theorem eq_opcode_or_operand {w op : Word} {n : Nat} (hop : op.toNat < 256) (hn : n < 256)
    (h : w.toNat = 256 * n + op.toNat) : w = op ||| BitVec.ofNat 32 n <<< 8 := by
  have hs : (BitVec.ofNat 32 n <<< 8).toNat = n * 2 ^ 8 :=
    shifted_toNat (toNat_ofNat_of_lt (by omega)) (by omega)
  rw [BitVec.or_comm]
  exact eq_or_of_toNat 8 (by omega) hop (by omega)

theorem encode_preset_ofNat {n : Nat} (h : n < 15) :
    encode (.preset (BitVec.ofNat 4 n)) = 0x00000001#32 ||| BitVec.ofNat 32 n <<< 8 :=
  eq_opcode_or_operand (by decide) (by omega)
    (by rw [encode_preset_toNat, toNat_ofNat_of_lt (by omega)]; rfl)

theorem encode_decodeSlot_ofNat {n : Nat} (h : n < 30) :
    encode (.decodeSlot (BitVec.ofNat 5 n)) = 0x00000002#32 ||| BitVec.ofNat 32 n <<< 8 :=
  eq_opcode_or_operand (by decide) (by omega)
    (by rw [encode_decodeSlot_toNat, toNat_ofNat_of_lt (by omega)]; rfl)

theorem encode_lookup_ofNat {n : Nat} (h : n < 4) :
    encode (.lookup (BitVec.ofNat Config.pixelBits n)) = 0x00000004#32 ||| BitVec.ofNat 32 n <<< 8 :=
  eq_opcode_or_operand (by decide) (by omega)
    (by rw [encode_lookup_toNat, toNat_ofNat_of_lt h]; rfl)

theorem encode_checkActive_ofNat {n : Nat} (h : n < 30) :
    encode (.checkActive (BitVec.ofNat 5 n)) = 0x00000005#32 ||| BitVec.ofNat 32 n <<< 8 :=
  eq_opcode_or_operand (by decide) (by omega)
    (by rw [encode_checkActive_toNat, toNat_ofNat_of_lt (by omega)]; rfl)

theorem encode_unpack_ofNat {lo hi : Nat} (hlo : lo < 256) (hhi : hi < 256) :
    encode (.unpack (BitVec.ofNat 8 lo) (BitVec.ofNat 8 hi)) =
      0x00000006#32 ||| BitVec.ofNat 32 lo <<< 8 ||| BitVec.ofNat 32 hi <<< 16 := by
  have hhigh : (BitVec.ofNat 32 hi <<< 16).toNat = hi * 2 ^ 16 :=
    shifted_toNat (toNat_ofNat_of_lt (by omega)) (by omega)
  have hn : (BitVec.ofNat 32 (256 * lo + 6)).toNat = 256 * lo + 6 := toNat_ofNat_of_lt (by omega)
  have hlow : 0x00000006#32 ||| BitVec.ofNat 32 lo <<< 8 = BitVec.ofNat 32 (256 * lo + 6) :=
    (eq_opcode_or_operand (by decide) hlo hn).symm
  rw [hlow, BitVec.or_comm]
  refine eq_or_of_toNat 16 (by omega) (by omega) ?_
  rw [hhigh, hn, encode_unpack_toNat, toNat_ofNat_of_lt hhi, toNat_ofNat_of_lt hlo]
  omega

/-- The assembler reads a mnemonic as the name that it spells. -/
theorem assemble_of_anyCase {m : List Char} {name : String} (h : AnyCase m name)
    (rest : List (List Char)) : assemble (m :: rest) = assemble (name.toList :: rest) := by
  have hs (other : String) : sameName m other = sameName name.toList other := by
    rw [Bool.eq_iff_iff, sameName_iff, sameName_iff, AnyCase, AnyCase, h]
  rcases rest with _ | ⟨a, _ | ⟨b, _ | ⟨c, rest⟩⟩⟩ <;> simp only [assemble, hs]

/-- What the assembler accepts is a command line of R87, with its word. -/
theorem commandLine_of_assemble {tokens : List (List Char)} {i : Instr} (h : assemble tokens = some i) :
    CommandLine tokens (encode i) := by
  unfold assemble at h
  split at h
  · split_ifs at h with hm
    cases h
    exact .decodeSave ((sameName_iff ..).1 hm)
  · split_ifs at h with hm hm hm ha hm hm
    · obtain ⟨n, hn, hlt, rfl⟩ := (operandBelow_iff ..).1 h
      rw [encode_preset_ofNat hlt]
      exact .preset ((sameName_iff ..).1 hm) ((parsePreset_iff ..).1 hn) hlt
    · obtain ⟨n, hn, hlt, rfl⟩ := (operandBelow_iff ..).1 h
      rw [encode_decodeSlot_ofNat hlt]
      exact .decodeSlot ((sameName_iff ..).1 hm) ((parseNumber_iff ..).1 hn) hlt
    · cases h
      exact .decodeSaveInc ((sameName_iff ..).1 hm) ((sameName_iff ..).1 ha)
    · obtain ⟨n, hn, hlt, rfl⟩ := (operandBelow_iff ..).1 h
      rw [encode_lookup_ofNat hlt]
      exact .lookup ((sameName_iff ..).1 hm) ((parseNumber_iff ..).1 hn) hlt
    · obtain ⟨n, hn, hlt, rfl⟩ := (operandBelow_iff ..).1 h
      rw [encode_checkActive_ofNat hlt]
      exact .checkActive ((sameName_iff ..).1 hm) ((parseNumber_iff ..).1 hn) hlt
  · split_ifs at h with hm
    split at h
    · next hi hhi =>
      split_ifs at h with hhilt
      obtain ⟨lo, hlo, hlolt, rfl⟩ := (operandBelow_iff ..).1 h
      rw [encode_unpack_ofNat hlolt hhilt]
      exact .unpack ((sameName_iff ..).1 hm) ((parseNumber_iff ..).1 hlo) hlolt
        ((parseNumber_iff ..).1 hhi) hhilt
    · cases h
  · cases h

/-- A command line of R87 is assembled, to its word: with its mnemonic spelled out, the assembler's
tests evaluate to the mnemonic's own branch. -/
theorem assemble_of_commandLine {tokens : List (List Char)} {w : Word} (h : CommandLine tokens w) :
    ∃ i, assemble tokens = some i ∧ encode i = w := by
  cases h with
  | preset hm ha hlt =>
    exact ⟨_, (assemble_of_anyCase hm _).trans
      ((operandBelow_iff ..).2 ⟨_, (parsePreset_iff ..).2 ha, hlt, rfl⟩), encode_preset_ofNat hlt⟩
  | decodeSlot hm ha hlt =>
    exact ⟨_, (assemble_of_anyCase hm _).trans
      ((operandBelow_iff ..).2 ⟨_, (parseNumber_iff ..).2 ha, hlt, rfl⟩), encode_decodeSlot_ofNat hlt⟩
  | decodeSave hm => exact ⟨_, (assemble_of_anyCase hm _).trans rfl, rfl⟩
  | decodeSaveInc hm ha =>
    exact ⟨_, (assemble_of_anyCase hm _).trans (if_pos ((sameName_iff ..).2 ha)), rfl⟩
  | lookup hm ha hlt =>
    exact ⟨_, (assemble_of_anyCase hm _).trans
      ((operandBelow_iff ..).2 ⟨_, (parseNumber_iff ..).2 ha, hlt, rfl⟩), encode_lookup_ofNat hlt⟩
  | checkActive hm ha hlt =>
    exact ⟨_, (assemble_of_anyCase hm _).trans
      ((operandBelow_iff ..).2 ⟨_, (parseNumber_iff ..).2 ha, hlt, rfl⟩), encode_checkActive_ofNat hlt⟩
  | unpack hm hlo hlolt hhi hhilt =>
    refine ⟨_, (assemble_of_anyCase hm _).trans ?_, encode_unpack_ofNat hlolt hhilt⟩
    rw [assemble, if_pos (by decide), (parseNumber_iff ..).2 hhi]
    exact (if_pos hhilt).trans ((operandBelow_iff ..).2 ⟨_, (parseNumber_iff ..).2 hlo, hlolt, rfl⟩)

/-! ## The obligations -/

/-- Settles O1: each row of the decoder reads the fields that `encode` wrote. -/
theorem decodeEncodeRoundTrip : Obligations.DecodeEncodeRoundTrip := by
  intro i hw
  rw [decode_eq_ok_iff]
  cases i with
  | preset pid =>
    have hn := encode_preset_toNat pid
    have hpid : pidField (encode (.preset pid)) = pid :=
      BitVec.eq_of_toNat_eq (by rw [pidField_toNat]; omega)
    rw [hpid]
    exact ⟨by omega, .inl ⟨by omega, by omega, of_decide_eq_true hw, rfl⟩⟩
  | decodeSlot slot =>
    have hn := encode_decodeSlot_toNat slot
    have hslot : slotField (encode (.decodeSlot slot)) = slot :=
      BitVec.eq_of_toNat_eq (by rw [slotField_toNat]; omega)
    rw [hslot]
    exact ⟨by omega, .inr (.inl ⟨by omega, by omega, of_decide_eq_true hw, rfl⟩)⟩
  | decodeSave inc =>
    have hn := encode_decodeSave_toNat inc
    have hinc : incField (encode (.decodeSave inc)) = inc := by cases inc <;> rfl
    have := inc.toNat_le
    rw [hinc]
    exact ⟨by omega, .inr (.inr (.inl ⟨by omega, by omega, rfl⟩))⟩
  | lookup v =>
    have hn := encode_lookup_toNat v
    have hlt := pixel_toNat_lt v
    have hv : valueField (encode (.lookup v)) = v :=
      BitVec.eq_of_toNat_eq (by rw [valueField_toNat]; omega)
    rw [hv]
    exact ⟨by omega, .inr (.inr (.inr (.inl ⟨by omega, by omega, rfl⟩)))⟩
  | checkActive slot =>
    have hn := encode_checkActive_toNat slot
    have hslot : slotField (encode (.checkActive slot)) = slot :=
      BitVec.eq_of_toNat_eq (by rw [slotField_toNat]; omega)
    rw [hslot]
    exact ⟨by omega, .inr (.inr (.inr (.inr (.inl ⟨by omega, by omega, of_decide_eq_true hw, rfl⟩))))⟩
  | unpack lo hi =>
    have hn := encode_unpack_toNat lo hi
    have hlo : loField (encode (.unpack lo hi)) = lo :=
      BitVec.eq_of_toNat_eq (by rw [loField_toNat]; omega)
    have hhi : hiField (encode (.unpack lo hi)) = hi :=
      BitVec.eq_of_toNat_eq (by rw [hiField_toNat]; omega)
    rw [hlo, hhi]
    exact ⟨by omega, .inr (.inr (.inr (.inr (.inr ⟨by omega, by omega, rfl⟩))))⟩

/-- Settles O2: the word has the number of its command's fields, and the decoder checks the ranges. -/
theorem decodedWordReencodes : Obligations.DecodedWordReencodes :=
  fun _ _ h => ⟨BitVec.eq_of_toNat_eq (decode_toNat h), decode_wellFormed h⟩

/-- Settles O3: both sides of each row in numbers. -/
theorem decodeFollowsOpcodeMap : Obligations.DecodeFollowsOpcodeMap := by
  intro w
  refine ⟨?_, ?_, ?_, ?_, ?_, ?_, fun h => (reservedWord_iff w).1 (h.imp_right .inl)⟩
  · rw [and_rowMask_eq_iff 12 1 (by decide) (by decide) (by decide) (by decide)]
    simp [decode_eq_ok_iff, pidField_toNat, Nat.lt_succ_iff, and_assoc]
  · rw [and_rowMask_eq_iff 13 2 (by decide) (by decide) (by decide) (by decide)]
    simp [decode_eq_ok_iff, slotField_toNat, Nat.lt_succ_iff, and_assoc]
  · rw [and_rowMask_eq_iff 9 3 (by decide) (by decide) (by decide) (by decide)]
    simp [decode_eq_ok_iff]
  · rw [and_rowMask_eq_iff 10 4 (by decide) (by decide) (by decide) (by decide)]
    simp [decode_eq_ok_iff]
  · rw [and_rowMask_eq_iff 13 5 (by decide) (by decide) (by decide) (by decide)]
    simp [decode_eq_ok_iff, slotField_toNat, Nat.lt_succ_iff, and_assoc]
  · rw [and_rowMask_eq_iff 24 6 (by decide) (by decide) (by decide) (by decide)]
    simp [decode_eq_ok_iff]

/-- Settles O4: the word's number is the sum of its command's fields. -/
theorem operandsAreUnsignedFields : Obligations.OperandsAreUnsignedFields := by
  intro w
  refine ⟨fun p h => ?_, fun n h => ?_, fun b h => ?_, fun v h => ?_, fun n h => ?_, fun l h hd => ?_⟩
  · have hw := decode_toNat h
    rw [encode_preset_toNat] at hw; omega
  · have hw := decode_toNat h
    rw [encode_decodeSlot_toNat] at hw; omega
  · have hw := decode_toNat h
    have := b.toNat_le
    rw [encode_decodeSave_toNat] at hw; omega
  · have hw := decode_toNat h
    have := pixel_toNat_lt v
    rw [encode_lookup_toNat] at hw; omega
  · have hw := decode_toNat h
    rw [encode_checkActive_toNat] at hw; omega
  · have hw := decode_toNat hd
    rw [encode_unpack_toNat] at hw; omega

/-- Settles O6: a reserved word does not decode, so its perform step is the quiet IllegalCommand. -/
theorem reservedWordsRaiseIllegalCommand : Obligations.ReservedWordsRaiseIllegalCommand := by
  refine ⟨reservedWord_iff, fun s w hnext hpending hw => ?_⟩
  obtain ⟨e, he⟩ := (reservedWord_iff w).1 hw
  rw [step_of_blockNext hnext hpending, perform, he]
  exact congrArg _ (State.finish_quiet_error s .illegalCommand w 0#32)

/-- Settles O5: the words are the encodings of these commands. -/
theorem sampleWordsDecode : Obligations.SampleWordsDecode :=
  ⟨decodeEncodeRoundTrip (.preset 14#4) rfl, decodeEncodeRoundTrip (.decodeSlot 29#5) rfl,
    decodeEncodeRoundTrip (.decodeSave true) rfl, decodeEncodeRoundTrip (.lookup 3#2) rfl,
    decodeEncodeRoundTrip (.checkActive 3#5) rfl, decodeEncodeRoundTrip (.unpack 0x3C#8 0x7E#8) rfl⟩

/-- Settles O51: both sides are the same sum of fields. -/
theorem streamWordFormats : Obligations.StreamWordFormats := by
  refine ⟨fun slot n => ?_, fun c => ⟨?_, ?_⟩, fun v => ?_, fun k => ?_, fun e => ?_⟩
  · have hslot : (slot.setWidth 32 <<< 8).toNat = slot.toNat * 2 ^ 8 :=
      shifted_toNat (BitVec.toNat_setWidth_of_le (by decide)) (by omega)
    have hn : (n.setWidth 32).toNat = n.toNat := BitVec.toNat_setWidth_of_le (by decide)
    have hhigh : (0x10000000#32 ||| slot.setWidth 32 <<< 8).toNat = 0x10000000 + slot.toNat * 2 ^ 8 := by
      rw [or_toNat 28 (by decide) (by omega), hslot]; rfl
    exact eq_or_of_toNat 8 (by omega) (by omega) (by rw [hdrWord_toNat]; omega)
  · have hc := rgbWord_toNat c
    exact eq_or_of_toNat 28 (by decide) (by omega) (by rw [pixWord_toNat, BitVec.toNat_ofNat]; omega)
  · rw [rgbWord_toNat]; omega
  · exact eq_tag_or_field (by decide) (by decide) (pvWord_toNat v)
  · exact eq_tag_or_field (by decide) (by decide) (endWord_toNat k)
  · exact eq_tag_or_field (by decide) (by decide) (abortWord_toNat e)

/-- Settles O52: the tag names the kind, and each field of that kind's format is read where it stands. -/
theorem streamWordsReadBack : Obligations.StreamWordsReadBack := by
  intro sw
  cases sw with
  | hdr slot n =>
    have hslot : (hdrWord slot n).extractLsb' 8 5 = slot :=
      BitVec.eq_of_toNat_eq (by rw [field_toNat, hdrWord_toNat]; omega)
    have hn : (hdrWord slot n).extractLsb' 0 8 = n :=
      BitVec.eq_of_toNat_eq (by rw [field_toNat, hdrWord_toNat]; omega)
    simp [streamFields, streamEncode, hdrWord_tag, hslot, hn]
  | pix c =>
    have hr : (pixWord c).extractLsb' 0 8 = c.r :=
      BitVec.eq_of_toNat_eq (by rw [field_toNat, pixWord_toNat]; omega)
    have hg : (pixWord c).extractLsb' 8 8 = c.g :=
      BitVec.eq_of_toNat_eq (by rw [field_toNat, pixWord_toNat]; omega)
    have hb : (pixWord c).extractLsb' 16 8 = c.b :=
      BitVec.eq_of_toNat_eq (by rw [field_toNat, pixWord_toNat]; omega)
    simp [streamFields, streamEncode, pixWord_tag, hr, hg, hb]
  | pv v =>
    have hlt := pixel_toNat_lt v
    have hv : (pvWord v).extractLsb' 0 Config.pixelBits = v :=
      BitVec.eq_of_toNat_eq ((field_toNat _ 0 2).trans (by rw [pvWord_toNat]; omega))
    simp [streamFields, streamEncode, pvWord_tag, hv]
  | fin k =>
    have hk : (endWord k).extractLsb' 0 8 = k :=
      BitVec.eq_of_toNat_eq (by rw [field_toNat, endWord_toNat]; omega)
    simp [streamFields, streamEncode, endWord_tag, hk]
  | abort e =>
    have he : (abortWord e).extractLsb' 0 4 = e :=
      BitVec.eq_of_toNat_eq (by rw [field_toNat, abortWord_toNat]; omega)
    simp [streamFields, streamEncode, abortWord_tag, he]

/-- Settles O58: each command line of R87 is the branch its mnemonic selects in the assembler. -/
theorem assemblerEncodesCommands : Obligations.AssemblerEncodesCommands := by
  intro tokens w
  rw [Option.map_eq_some_iff]
  exact ⟨fun ⟨i, hi, hw⟩ => hw ▸ commandLine_of_assemble hi, assemble_of_commandLine⟩

end Sys2Proof.Machine
end

section
/-! Proofs of the statements of 40_color_resolver.md: each parser of the resolver takes exactly the strings
of its grammar, the grammars have no string in common, and the word of a resolution. -/

namespace Sys2Proof.Machine
open Sys2Proof

/-! ## Digits -/

theorem not_hexDigit {c : Char} (h : hexVal c = none) (d : Nat) : ¬ HexDigit c d := by
  simp [← hexVal_iff, h]

theorem not_decDigit {c : Char} (h : digitVal c = none) (d : Nat) : ¬ DecDigit c d := by
  simp [← digitVal_iff, h]

/-- A string of digits has no character that is no digit. -/
theorem not_mem_of_digits {Digit : Char → Nat → Prop} {c : Char} (hc : ∀ d, ¬ Digit c d)
    {s : List Char} {ds : List Nat} (h : List.Forall₂ Digit s ds) : c ∉ s := by
  induction h with
  | nil => exact List.not_mem_nil
  | cons hd _ ih =>
    rintro (_ | ⟨_, hm⟩)
    · exact hc _ hd
    · exact ih hm

/-! ## HEX -/

/-- At most the `#` is dropped. -/
theorem exists_optHash_dropHash (e : List Char) : ∃ h, OptHash h ∧ e = h ++ dropHash e := by
  unfold dropHash
  split
  · exact ⟨[], .inl rfl, rfl⟩
  · split
    · next h => exact ⟨['#'], .inr rfl, by rw [h]; rfl⟩
    · exact ⟨[], .inl rfl, rfl⟩

/-- The optional `#` is all that is dropped from a string of hex digits. -/
theorem dropHash_hexDigits {h s : List Char} {ds : List Nat} (hh : OptHash h)
    (hs : List.Forall₂ HexDigit s ds) : dropHash (h ++ s) = s := by
  obtain rfl | rfl := hh
  · cases hs with
    | nil => rfl
    | cons hc _ =>
      refine if_neg ?_
      rintro rfl
      exact not_hexDigit rfl _ hc
  · rfl

/-- The digits of a hex expression (40_color_resolver.md R103): an optional `#`, then hex digits of
these values. -/
theorem hexVals_dropHash_iff (e : ColorExpr) (ds : List Nat) : hexVals (dropHash e) = some ds ↔
    ∃ h s, OptHash h ∧ List.Forall₂ HexDigit s ds ∧ e = h ++ s := by
  constructor
  · intro hd
    obtain ⟨h, hh, he⟩ := exists_optHash_dropHash e
    exact ⟨h, _, hh, (hexVals_iff _ _).1 hd, he⟩
  · rintro ⟨h, s, hh, hs, rfl⟩
    rw [dropHash_hexDigits hh hs]
    exact (hexVals_iff _ _).2 hs

theorem hex3_iff (e : ColorExpr) (d0 d1 d2 : Nat) :
    Hex3 e d0 d1 d2 ↔ hexVals (dropHash e) = some [d0, d1, d2] := by
  rw [hexVals_dropHash_iff]
  constructor
  · rintro ⟨h, c0, c1, c2, hh, h0, h1, h2, he⟩
    exact ⟨h, _, hh, .cons h0 (.cons h1 (.cons h2 .nil)), he⟩
  · rintro ⟨h, _, hh, _ | ⟨h0, _ | ⟨h1, _ | ⟨h2, _ | _⟩⟩⟩, he⟩
    exact ⟨h, _, _, _, hh, h0, h1, h2, he⟩

theorem hex6_iff (e : ColorExpr) (d0 d1 d2 d3 d4 d5 : Nat) :
    Hex6 e d0 d1 d2 d3 d4 d5 ↔ hexVals (dropHash e) = some [d0, d1, d2, d3, d4, d5] := by
  rw [hexVals_dropHash_iff]
  constructor
  · rintro ⟨h, c0, c1, c2, c3, c4, c5, hh, h0, h1, h2, h3, h4, h5, he⟩
    exact ⟨h, _, hh, .cons h0 (.cons h1 (.cons h2 (.cons h3 (.cons h4 (.cons h5 .nil))))), he⟩
  · rintro ⟨h, _, hh, _ | ⟨h0, _ | ⟨h1, _ | ⟨h2, _ | ⟨h3, _ | ⟨h4, _ | ⟨h5, _ | _⟩⟩⟩⟩⟩⟩, he⟩
    exact ⟨h, _, _, _, _, _, _, hh, h0, h1, h2, h3, h4, h5, he⟩

theorem parseHex_iff (e : ColorExpr) (r g b : Nat) : parseHex e = some (r, g, b) ↔
    (∃ d0 d1 d2, Hex3 e d0 d1 d2 ∧ r = 17 * d0 ∧ g = 17 * d1 ∧ b = 17 * d2) ∨
    (∃ d0 d1 d2 d3 d4 d5, Hex6 e d0 d1 d2 d3 d4 d5 ∧
      r = 16 * d0 + d1 ∧ g = 16 * d2 + d3 ∧ b = 16 * d4 + d5) := by
  simp only [hex3_iff, hex6_iff]
  unfold parseHex
  constructor
  · intro h
    split at h
    · next hd => cases h; exact .inl ⟨_, _, _, hd, rfl, rfl, rfl⟩
    · next hd => cases h; exact .inr ⟨_, _, _, _, _, _, hd, rfl, rfl, rfl⟩
    · cases h
  · rintro (⟨d0, d1, d2, hd, rfl, rfl, rfl⟩ | ⟨d0, d1, d2, d3, d4, d5, hd, rfl, rfl, rfl⟩) <;> rw [hd]

/-! ## RGB and PCT -/

theorem dropKeyword_iff (e rest : List Char) :
    dropKeyword e = some rest ↔ ∃ kw, Keyword kw ∧ e = kw ++ rest := by
  constructor
  · intro h
    unfold dropKeyword at h
    split at h
    · next r g b t =>
      split at h
      · next hk =>
        cases h
        obtain ⟨hr, hg, hb⟩ := hk
        exact ⟨[r, g, b], ⟨r, g, b, by simpa using hr, by simpa using hg, by simpa using hb, rfl⟩, rfl⟩
      · cases h
    · cases h
  · rintro ⟨_, ⟨r, g, b, hr, hg, hb, rfl⟩, rfl⟩
    exact if_pos ⟨by simpa using hr, by simpa using hg, by simpa using hb⟩

theorem dropChar_iff (c : Char) (e rest : List Char) : dropChar c e = some rest ↔ e = c :: rest := by
  cases e with
  | nil => simp [dropChar]
  | cons x t => by_cases h : x = c <;> simp [dropChar, h]

/-- A component is a string of decimal digits whose values make a number. -/
theorem component_iff (maxLead : Nat) (s : List Char) (n : Nat) : Component maxLead s n ↔
    ∃ ds, List.Forall₂ DecDigit s ds ∧ componentVal maxLead ds = some n := by
  constructor
  · rintro (⟨a, da, ha, rfl, rfl⟩ | ⟨a, b, da, db, ha, hb, rfl, rfl⟩ |
      ⟨a, b, c, da, db, dc, ha, hb, hc, hlead, rfl, rfl⟩)
    · exact ⟨_, .cons ha .nil, rfl⟩
    · exact ⟨_, .cons ha (.cons hb .nil), rfl⟩
    · exact ⟨_, .cons ha (.cons hb (.cons hc .nil)), if_pos hlead⟩
  · rintro ⟨ds, hs, hn⟩
    unfold componentVal at hn
    split at hn
    · obtain _ | ⟨ha, _ | _⟩ := hs
      cases hn
      exact .inl ⟨_, _, ha, rfl, rfl⟩
    · obtain _ | ⟨ha, _ | ⟨hb, _ | _⟩⟩ := hs
      cases hn
      exact .inr (.inl ⟨_, _, _, _, ha, hb, rfl, rfl⟩)
    · obtain _ | ⟨ha, _ | ⟨hb, _ | ⟨hc, _ | _⟩⟩⟩ := hs
      split_ifs at hn with hlead
      cases hn
      exact .inr (.inr ⟨_, _, _, _, _, _, ha, hb, hc, hlead, rfl, rfl⟩)
    · cases hn

/-- What `takeDigits` takes off are decimal digits of its values. -/
theorem exists_digits_takeDigits (e : List Char) :
    ∃ s, List.Forall₂ DecDigit s (takeDigits e).1 ∧ e = s ++ (takeDigits e).2 := by
  induction e with
  | nil => exact ⟨[], .nil, rfl⟩
  | cons c rest ih =>
    rw [takeDigits]
    split
    · next d hd =>
      obtain ⟨s, hs, he⟩ := ih
      exact ⟨c :: s, .cons ((digitVal_iff _ _).1 hd) hs, congrArg (c :: ·) he⟩
    · exact ⟨[], .nil, rfl⟩

/-- `takeDigits` takes all leading digits off, if no further digit follows them. -/
theorem takeDigits_append {s rest : List Char} {ds : List Nat} (hs : List.Forall₂ DecDigit s ds)
    (hrest : takeDigits rest = ([], rest)) : takeDigits (s ++ rest) = (ds, rest) := by
  induction hs with
  | nil => exact hrest
  | cons hc _ ih => rw [List.cons_append, takeDigits, (digitVal_iff _ _).2 hc, ih]

/-- The unit after a component: `%` in the percentage form (40_color_resolver.md R108). -/
def unitChars (percent : Bool) : List Char := if percent then ['%'] else []

theorem takeComponent_eq_some {maxLead : Nat} {percent : Bool} {e rest : List Char} {n : Nat}
    (h : takeComponent maxLead percent e = some (n, rest)) :
    ∃ s, Component maxLead s n ∧ e = s ++ unitChars percent ++ rest := by
  obtain ⟨s, hs, he⟩ := exists_digits_takeDigits e
  unfold takeComponent at h
  split at h
  · cases h
  · next m hm =>
    have hc : Component maxLead s m := (component_iff ..).2 ⟨_, hs, hm⟩
    cases percent with
    | false =>
      cases h
      exact ⟨s, hc, by simpa [unitChars] using he⟩
    | true =>
      rw [if_pos rfl] at h
      split at h
      · next hp =>
        cases h
        rw [(dropChar_iff ..).1 hp] at he
        exact ⟨s, hc, by simpa [unitChars] using he⟩
      · cases h

/-- What follows a component must not begin with a further digit, or `takeDigits` would take it too. -/
theorem takeComponent_append {maxLead : Nat} {s rest : List Char} {n : Nat} (percent : Bool)
    (hs : Component maxLead s n) (hrest : takeDigits rest = ([], rest)) :
    takeComponent maxLead percent (s ++ unitChars percent ++ rest) = some (n, rest) := by
  obtain ⟨ds, hds, hn⟩ := (component_iff ..).1 hs
  rw [List.append_assoc]
  cases percent with
  | false => simp [takeComponent, unitChars, takeDigits_append hds hrest, hn]
  | true =>
    have hp : takeDigits ('%' :: rest) = ([], '%' :: rest) := rfl
    simp [takeComponent, unitChars, takeDigits_append hds hp, hn, dropChar]

theorem exists_spaces_dropSpaces (e : List Char) :
    ∃ i, e = List.replicate i ' ' ++ dropSpaces e := by
  induction e with
  | nil => exact ⟨0, rfl⟩
  | cons c rest ih =>
    rw [dropSpaces]
    split
    · next hc =>
      obtain ⟨i, hi⟩ := ih
      exact ⟨i + 1, by rw [List.replicate_succ, List.cons_append, ← hi, hc]⟩
    · exact ⟨0, rfl⟩

theorem dropSpaces_append (i : Nat) (rest : List Char) :
    dropSpaces (List.replicate i ' ' ++ rest) = dropSpaces rest := by
  induction i with
  | zero => rfl
  | succ i ih => rw [List.replicate_succ, List.cons_append, dropSpaces, if_pos rfl, ih]

theorem dropComma_eq_some {e rest : List Char} (h : dropComma e = some rest) :
    ∃ k, Comma k ∧ e = k ++ rest := by
  obtain ⟨t, ht, rfl⟩ := Option.map_eq_some_iff.1 h
  obtain ⟨i, hi⟩ := exists_spaces_dropSpaces e
  obtain ⟨j, hj⟩ := exists_spaces_dropSpaces t
  refine ⟨_, ⟨i, j, rfl⟩, ?_⟩
  rw [List.append_assoc, List.cons_append, ← hj, ← (dropChar_iff ..).1 ht]
  exact hi

/-- What follows a separator must not begin with a further space, or `dropSpaces` would take it too. -/
theorem dropComma_append {k rest : List Char} (hk : Comma k) (hrest : dropSpaces rest = rest) :
    dropComma (k ++ rest) = some rest := by
  obtain ⟨i, j, rfl⟩ := hk
  have hcomma : ∀ t, dropSpaces (',' :: t) = ',' :: t := fun _ => rfl
  simp [dropComma, dropSpaces_append, hcomma, dropChar, hrest]

/-- A comma is no further digit of the component before it. -/
theorem takeDigits_comma {k : List Char} (hk : Comma k) (rest : List Char) :
    takeDigits (k ++ rest) = ([], k ++ rest) := by
  obtain ⟨i, j, rfl⟩ := hk
  cases i <;> rfl

/-- A component begins with no space of the separator before it. -/
theorem dropSpaces_component {maxLead n : Nat} {s : List Char} (hs : Component maxLead s n)
    (rest : List Char) : dropSpaces (s ++ rest) = s ++ rest := by
  obtain ⟨ds, hds, hn⟩ := (component_iff ..).1 hs
  cases hds with
  | nil => cases hn
  | cons hc _ =>
    refine if_neg ?_
    rintro rfl
    exact not_decDigit rfl _ hc

/-- RGB and PCT as one form: they differ in the bound of a component's lead digit and in the unit after
it (40_color_resolver.md R106, R108). -/
def TripleForm (maxLead : Nat) (percent : Bool) (e : ColorExpr) (n1 n2 n3 : Nat) : Prop :=
  ∃ kw c1 k1 c2 k2 c3, Keyword kw ∧ Component maxLead c1 n1 ∧ Comma k1 ∧ Component maxLead c2 n2 ∧
    Comma k2 ∧ Component maxLead c3 n3 ∧
    e = kw ++ '(' :: (c1 ++ unitChars percent ++ (k1 ++ (c2 ++ unitChars percent ++
      (k2 ++ (c3 ++ unitChars percent ++ [')'])))))

theorem rgbForm_iff (e : ColorExpr) (n1 n2 n3 : Nat) :
    RgbForm e n1 n2 n3 ↔ TripleForm 2 false e n1 n2 n3 := by
  simp [RgbForm, TripleForm, unitChars]

theorem pctForm_iff (e : ColorExpr) (p1 p2 p3 : Nat) :
    PctForm e p1 p2 p3 ↔ TripleForm 1 true e p1 p2 p3 := by
  simp [PctForm, TripleForm, unitChars]

/-- The parser takes the parts off one by one. -/
theorem parseTriple_eq_some_iff (maxLead : Nat) (percent : Bool) (e : ColorExpr) (n1 n2 n3 : Nat) :
    parseTriple maxLead percent e = some (n1, n2, n3) ↔ ∃ e1 e2 e3 e4 e5 e6 e7,
      dropKeyword e = some e1 ∧ dropChar '(' e1 = some e2 ∧
      takeComponent maxLead percent e2 = some (n1, e3) ∧ dropComma e3 = some e4 ∧
      takeComponent maxLead percent e4 = some (n2, e5) ∧ dropComma e5 = some e6 ∧
      takeComponent maxLead percent e6 = some (n3, e7) ∧ dropChar ')' e7 = some [] := by
  simp [parseTriple, Option.bind_eq_some_iff, ← exists_and_left]

theorem parseTriple_iff (maxLead : Nat) (percent : Bool) (e : ColorExpr) (n1 n2 n3 : Nat) :
    parseTriple maxLead percent e = some (n1, n2, n3) ↔ TripleForm maxLead percent e n1 n2 n3 := by
  rw [parseTriple_eq_some_iff]
  constructor
  · rintro ⟨e1, e2, e3, e4, e5, e6, e7, hkw', hopen, h1', hk1', h2', hk2', h3', hclose⟩
    obtain ⟨kw, hkw, rfl⟩ := (dropKeyword_iff ..).1 hkw'
    obtain rfl := (dropChar_iff ..).1 hopen
    obtain ⟨c1, h1, rfl⟩ := takeComponent_eq_some h1'
    obtain ⟨k1, hk1, rfl⟩ := dropComma_eq_some hk1'
    obtain ⟨c2, h2, rfl⟩ := takeComponent_eq_some h2'
    obtain ⟨k2, hk2, rfl⟩ := dropComma_eq_some hk2'
    obtain ⟨c3, h3, rfl⟩ := takeComponent_eq_some h3'
    obtain rfl := (dropChar_iff ..).1 hclose
    exact ⟨kw, c1, k1, c2, k2, c3, hkw, h1, hk1, h2, hk2, h3, rfl⟩
  · rintro ⟨kw, c1, k1, c2, k2, c3, hkw, h1, hk1, h2, hk2, h3, rfl⟩
    have hspace {c n} (hc : Component maxLead c n) (rest : List Char) :
        dropSpaces (c ++ unitChars percent ++ rest) = c ++ unitChars percent ++ rest := by
      rw [List.append_assoc, dropSpaces_component hc]
    exact ⟨_, _, _, _, _, _, _, (dropKeyword_iff ..).2 ⟨kw, hkw, rfl⟩, (dropChar_iff ..).2 rfl,
      takeComponent_append percent h1 (takeDigits_comma hk1 _), dropComma_append hk1 (hspace h2 _),
      takeComponent_append percent h2 (takeDigits_comma hk2 _), dropComma_append hk2 (hspace h3 _),
      takeComponent_append percent h3 rfl, (dropChar_iff ..).2 rfl⟩

theorem parseRgb_iff (e : ColorExpr) (r g b : Nat) : parseRgb e = some (r, g, b) ↔ RgbForm e r g b := by
  rw [rgbForm_iff, parseRgb, parseTriple_iff]

theorem parsePct_iff (e : ColorExpr) (r g b : Nat) : parsePct e = some (r, g, b) ↔
    ∃ p1 p2 p3, PctForm e p1 p2 p3 ∧ r = p1 * 255 / 100 ∧ g = p2 * 255 / 100 ∧ b = p3 * 255 / 100 := by
  simp [parsePct, pctForm_iff, ← parseTriple_iff, pctToByte, eq_comm]

/-! ## What tells the grammars apart (40_color_resolver.md R112) -/

theorem inHex_iff (e : ColorExpr) : InHex e ↔ (parseHex e).isSome := by
  simp only [Option.isSome_iff_exists, Prod.exists, parseHex_iff]
  constructor
  · rintro (⟨d0, d1, d2, h⟩ | ⟨d0, d1, d2, d3, d4, d5, h⟩)
    · exact ⟨_, _, _, .inl ⟨_, _, _, h, rfl, rfl, rfl⟩⟩
    · exact ⟨_, _, _, .inr ⟨_, _, _, _, _, _, h, rfl, rfl, rfl⟩⟩
  · rintro ⟨r, g, b, ⟨d0, d1, d2, h, -⟩ | ⟨d0, d1, d2, d3, d4, d5, h, -⟩⟩
    · exact .inl ⟨_, _, _, h⟩
    · exact .inr ⟨_, _, _, _, _, _, h⟩

theorem inRgb_iff (e : ColorExpr) : InRgb e ↔ (parseRgb e).isSome := by
  simp only [Option.isSome_iff_exists, Prod.exists, parseRgb_iff, InRgb]

theorem inPct_iff (e : ColorExpr) : InPct e ↔ (parsePct e).isSome := by
  simp only [Option.isSome_iff_exists, Prod.exists, parsePct_iff]
  constructor
  · rintro ⟨p1, p2, p3, h⟩
    exact ⟨_, _, _, p1, p2, p3, h, rfl, rfl, rfl⟩
  · rintro ⟨_, _, _, p1, p2, p3, h, -⟩
    exact ⟨p1, p2, p3, h⟩

/-- A hex expression has no character but `#` and hex digits. -/
theorem InHex.not_mem {e : ColorExpr} (he : InHex e) {c : Char} (hash : c ≠ '#')
    (hc : hexVal c = none) : c ∉ e := by
  obtain ⟨ds, hds⟩ : ∃ ds, hexVals (dropHash e) = some ds := by
    rcases he with ⟨_, _, _, h⟩ | ⟨_, _, _, _, _, _, h⟩
    · exact ⟨_, (hex3_iff ..).1 h⟩
    · exact ⟨_, (hex6_iff ..).1 h⟩
  obtain ⟨h, s, hh, hs, rfl⟩ := (hexVals_dropHash_iff ..).1 hds
  refine List.not_mem_append ?_ (not_mem_of_digits (not_hexDigit hc) hs)
  rcases hh with rfl | rfl <;> simp [hash]

theorem percent_not_mem_keyword {kw : List Char} (h : Keyword kw) : '%' ∉ kw := by
  obtain ⟨r, g, b, hr, hg, hb, rfl⟩ := h
  simp only [List.mem_cons, List.not_mem_nil, or_false]
  rintro (rfl | rfl | rfl)
  · exact absurd hr (by decide)
  · exact absurd hg (by decide)
  · exact absurd hb (by decide)

theorem percent_not_mem_component {maxLead n : Nat} {s : List Char} (h : Component maxLead s n) :
    '%' ∉ s := by
  obtain ⟨ds, hds, -⟩ := (component_iff ..).1 h
  exact not_mem_of_digits (not_decDigit rfl) hds

theorem percent_not_mem_comma {k : List Char} (h : Comma k) : '%' ∉ k := by
  obtain ⟨i, j, rfl⟩ := h
  simp

theorem TripleForm.paren_mem {maxLead : Nat} {percent : Bool} {e : ColorExpr} {n1 n2 n3 : Nat}
    (h : TripleForm maxLead percent e n1 n2 n3) : '(' ∈ e := by
  obtain ⟨kw, c1, k1, c2, k2, c3, -, -, -, -, -, -, rfl⟩ := h
  exact List.mem_append_right _ List.mem_cons_self

theorem TripleForm.percent_mem_iff {maxLead : Nat} {percent : Bool} {e : ColorExpr} {n1 n2 n3 : Nat}
    (h : TripleForm maxLead percent e n1 n2 n3) : '%' ∈ e ↔ percent = true := by
  obtain ⟨kw, c1, k1, c2, k2, c3, hkw, h1, hk1, h2, hk2, h3, rfl⟩ := h
  have hunit : '%' ∈ unitChars percent ↔ percent = true := by cases percent <;> decide
  simp [percent_not_mem_keyword hkw, percent_not_mem_component h1, percent_not_mem_component h2,
    percent_not_mem_component h3, percent_not_mem_comma hk1, percent_not_mem_comma hk2, hunit]

/-- Settles O55: every RGB and PCT expression has a parenthesis, only PCT ones have a `%`, the alias
has a `t`, and a hex expression has none of these characters. -/
theorem grammarsAreDisjoint : Obligations.GrammarsAreDisjoint := by
  intro e
  have hhex : InHex e → '(' ∉ e ∧ 't' ∉ e := fun h =>
    ⟨h.not_mem (by decide) (by decide), h.not_mem (by decide) (by decide)⟩
  have hrgb : InRgb e → '(' ∈ e ∧ '%' ∉ e := by
    rintro ⟨n1, n2, n3, h⟩
    have ht := (rgbForm_iff ..).1 h
    exact ⟨ht.paren_mem, by simp [ht.percent_mem_iff]⟩
  have hpct : InPct e → '(' ∈ e ∧ '%' ∈ e := by
    rintro ⟨p1, p2, p3, h⟩
    have ht := (pctForm_iff ..).1 h
    exact ⟨ht.paren_mem, by simp [ht.percent_mem_iff]⟩
  have halias : e = "transparent".toList → '(' ∉ e ∧ 't' ∈ e := by rintro rfl; decide
  tauto

/-! ## The resolver -/

theorem toList_transparent : "transparent".toList = transparentName := rfl

theorem resolve_transparentName : resolve transparentName = .ok (255, 255, 255) := rfl

/-- No expression is in two grammars, so the order of the parsers does not matter. -/
theorem resolve_eq_ok_iff {e : ColorExpr} (he : e ≠ transparentName) (c : Nat × Nat × Nat) :
    resolve e = .ok c ↔ parseHex e = some c ∨ parseRgb e = some c ∨ parsePct e = some c := by
  obtain ⟨hhexRgb, hhexPct, hrgbPct, -⟩ := grammarsAreDisjoint e
  rw [inHex_iff, inRgb_iff] at hhexRgb
  rw [inHex_iff, inPct_iff] at hhexPct
  rw [inRgb_iff, inPct_iff] at hrgbPct
  rw [resolve, expandTransparent, if_neg he]
  rcases hh : parseHex e with _ | h
  · rcases hr : parseRgb e with _ | r
    · cases parsePct e <;> simp
    · have hp : parsePct e = none := by simpa [hr] using hrgbPct
      simp [hp]
  · have hr : parseRgb e = none := by simpa [hh] using hhexRgb
    have hp : parsePct e = none := by simpa [hh] using hhexPct
    simp [hr, hp]

/-- The resolver's one error carries the expression as given (40_color_resolver.md R110). -/
theorem resolve_eq_error_iff (e : ColorExpr) (err : ResolveError) : resolve e = .error err ↔
    err = .invalidColorCode e ∧ ¬ ∃ c, resolve e = .ok c := by
  have hone : (∃ c, resolve e = .ok c) ∨ resolve e = .error (.invalidColorCode e) := by
    unfold resolve
    split
    · exact .inl ⟨_, rfl⟩
    · split
      · exact .inl ⟨_, rfl⟩
      · split
        · exact .inl ⟨_, rfl⟩
        · exact .inr rfl
  rcases hone with ⟨c, h⟩ | h <;> simp [h, eq_comm]

theorem exists_resolve_iff (e : ColorExpr) : (∃ c, resolve e = .ok c) ↔
    e = "transparent".toList ∨ InHex e ∨ InRgb e ∨ InPct e := by
  rw [toList_transparent]
  by_cases he : e = transparentName
  · exact iff_of_true ⟨_, he ▸ resolve_transparentName⟩ (.inl he)
  · simp only [he, false_or, resolve_eq_ok_iff he, exists_or, inHex_iff, inRgb_iff, inPct_iff,
      Option.isSome_iff_exists]

/-! ## The obligations -/

/-- Settles O53: the alias is resolved on its own, and every other expression by the parser of its
grammar. -/
theorem resolverMeetsGrammars : Obligations.ResolverMeetsGrammars := by
  intro e r g b
  refine Iff.trans ?_ (or_congr_right or_assoc)
  rw [← parseHex_iff, ← parseRgb_iff, ← parsePct_iff, toList_transparent]
  by_cases he : e = transparentName
  · have hhex : parseHex transparentName = none := rfl
    have hrgb : parseRgb transparentName = none := rfl
    have hpct : parsePct transparentName = none := rfl
    simp [he, resolve_transparentName, hhex, hrgb, hpct, eq_comm]
  · simp only [resolve_eq_ok_iff he, he, false_and, false_or]

/-- Settles O54: the one error is the answer exactly where no color is. -/
theorem resolverRejectsExactlyTheRest : Obligations.ResolverRejectsExactlyTheRest := by
  intro e err
  rw [resolve_eq_error_iff, exists_resolve_iff]

theorem classify_of_le {r g b : Nat} (h : max r (max g b) ≤ 255) : classify (.ok (r, g, b)) =
    ⟨⟨BitVec.ofNat 8 r, BitVec.ofNat 8 g, BitVec.ofNat 8 b⟩, .valid⟩ := if_pos h

theorem classify_of_gt {r g b : Nat} (h : 255 < max r (max g b)) :
    classify (.ok (r, g, b)) = ⟨⟨0#8, 0#8, 0#8⟩, .badRange⟩ := if_neg (Nat.not_le.2 h)

/-- Settles O56: `classify` splits the resolutions at 255, and a valid entry's word is its color bytes. -/
theorem entryWordOfExpression : Obligations.EntryWordOfExpression := by
  intro e
  refine ⟨fun err h => ?_, fun r g b h => ⟨fun hle => ?_, fun hgt => ?_⟩⟩
  · rw [entryWord, h, classify]; rfl
  · have hbytes : r < 2 ^ 8 ∧ g < 2 ^ 8 ∧ b < 2 ^ 8 := by omega
    obtain ⟨hr, hg, hb⟩ := hbytes
    have hst : EntryStatus.valid.code.toNat = 0 := rfl
    rw [entryWord, h, classify_of_le hle, palWord_toNat, hst, toNat_ofNat_of_lt hr, toNat_ofNat_of_lt hg,
      toNat_ofNat_of_lt hb]
    omega
  · rw [entryWord, h, classify_of_gt hgt]; rfl

end Sys2Proof.Machine
end

section
/-! Proofs of the statements of 41_palette_mapper.md: a palette word gives its entry back, loading
expressions, and the commands that read or replace the palette. -/

namespace Sys2Proof.Machine
open Sys2Proof

/-! ## Palette words and the entries they store -/

/-- A status code is stored as its status: only the reserved code 3 is not (10_state.md R34, R35). -/
theorem entryStatusOf_code (st : EntryStatus) : entryStatusOf st.code = st := by
  cases st <;> rfl

/-- Writing back what PAL reads as changes no entry (10_state.md R33, R35). -/
@[simp] theorem entryOfWord_palWord (e : PalEntry) : entryOfWord (palWord e) = e := by
  have hfield (start len : Nat) := field_toNat (palWord e) start len
  simp only [palWord_toNat] at hfield
  have hr : (palWord e).extractLsb' 0 8 = e.color.r := BitVec.eq_of_toNat_eq (by rw [hfield]; omega)
  have hg : (palWord e).extractLsb' 8 8 = e.color.g := BitVec.eq_of_toNat_eq (by rw [hfield]; omega)
  have hb : (palWord e).extractLsb' 16 8 = e.color.b := BitVec.eq_of_toNat_eq (by rw [hfield]; omega)
  have hst : (palWord e).extractLsb' 24 2 = e.st.code := BitVec.eq_of_toNat_eq (by rw [hfield]; omega)
  rw [entryOfWord, hr, hg, hb, hst, entryStatusOf_code]

/-- The entry loaded for an expression is the class of its resolution (41_palette_mapper.md R131). -/
theorem entryOfWord_entryWord (e : ColorExpr) : entryOfWord (entryWord e) = classify (resolve e) :=
  entryOfWord_palWord _

/-- A loaded expression's entry reads as the word written for it. -/
@[simp] theorem palWord_entryOfWord_entryWord (e : ColorExpr) :
    palWord (entryOfWord (entryWord e)) = entryWord e := by
  rw [entryOfWord_entryWord, entryWord]

/-! ## Loading expressions -/

/-- A step that answers a next state is the first of a run. -/
theorem run_succ_of_step (M : Host.Core) {s t : M.State} (n : Nat) (h : M.step s = .next t) :
    M.run (n + 1) s = M.run n t := by
  rw [Host.Core.run, h]

/-- SETPAL while idle loads the expression's entry, and the run goes on with the moves behind it. -/
theorem run_setPal {s : State} {k : Fin Config.palEntries} {e : ColorExpr} {rest : List HostMove}
    {n : Nat} {o : Host.Outcome State Fault Refusal} (hb : s.status.busy = false)
    (hm : s.hostMoves = setPal k e ++ rest)
    (hrun : Host.Core.run core n
      { s with pal := s.pal.set k.val (entryOfWord (entryWord e)) k.isLt, hostMoves := rest } = o) :
    Host.Core.run core (n + 1) s = o := by
  have hstep : step s =
      .next { s.writeRegister (regOffset (.pal k)) (entryWord e) with hostMoves := rest } :=
    step_of_write hm (offsetLegal_regOffset _)
  rw [writeRegister_pal, writePal_idle k _ hb] at hstep
  exact (run_succ_of_step core n hstep).trans hrun

/-- Writing all four entries leaves nothing of the palette before. -/
theorem palette_set_four (pal : Palette) (p0 p1 p2 p3 : PalEntry) :
    (((pal.set 0 p0).set 1 p1).set 2 p2).set 3 p3 = #v[p0, p1, p2, p3] := by
  refine Vector.ext fun i hi => ?_
  interval_cases i <;> simp

/-- LOADPAL while idle leaves the four expressions' entries and the moves behind it. -/
theorem run_loadPal {s : State} {e0 e1 e2 e3 : ColorExpr} {rest : List HostMove}
    (hb : s.status.busy = false) (hm : s.hostMoves = loadPal e0 e1 e2 e3 ++ rest) :
    Host.Core.run core 4 s = .next { s with
      pal := #v[entryOfWord (entryWord e0), entryOfWord (entryWord e1), entryOfWord (entryWord e2),
        entryOfWord (entryWord e3)], hostMoves := rest } := by
  simp only [loadPal, List.append_assoc] at hm
  rw [← palette_set_four s.pal]
  exact run_setPal hb hm <| run_setPal hb rfl <| run_setPal hb rfl <| run_setPal hb rfl rfl

/-! ## Mapping a pixel value -/

/-- An entry that holds the class of a resolution maps as the resolution itself does: split at
resolving, and then at 255 (40_color_resolver.md R111; 41_palette_mapper.md R130). -/
theorem mapValue_eq_lazyMap {pal : Palette} {exprs : Vector ColorExpr Config.palEntries} {v : Pixel}
    (h : pal.get (palIndex v) = classify (resolve (exprs.get (palIndex v)))) :
    mapValue pal v = lazyMap exprs v := by
  unfold lazyMap
  rcases hres : resolve (exprs.get (palIndex v)) with err | ⟨r, g, b⟩ <;> rw [hres] at h
  · exact mapValue_badCode (by rw [h]; rfl)
  · by_cases hle : max r (max g b) ≤ 255
    · rw [classify_of_le hle] at h
      have hin : r ≤ 255 ∧ g ≤ 255 ∧ b ≤ 255 := by omega
      rw [mapValue_valid (by rw [h]), h]
      exact (if_pos hin).symm
    · rw [classify_of_gt (Nat.not_le.1 hle)] at h
      have hout : ¬ (r ≤ 255 ∧ g ≤ 255 ∧ b ≤ 255) := by omega
      rw [mapValue_badRange (by rw [h])]
      exact (if_neg hout).symm

/-- LOOKUP of a BAD entry raises the error of its status (41_palette_mapper.md R137, R138). -/
theorem exec_lookup_bad {s : State} {v : Pixel} (h : (s.pal.get (palIndex v)).st ≠ .valid) :
    ∃ kind, exec (.lookup v) s = .next (s.finish [] (.error kind (entryInfo v) noPosition)) ∧
      kind.code = if (s.pal.get (palIndex v)).st = .badCode then 2#4 else 3#4 := by
  cases hst : (s.pal.get (palIndex v)).st with
  | valid => exact absurd hst h
  | badCode => exact ⟨.invalidColorCode, exec_lookup_error (mapValue_badCode hst), rfl⟩
  | badRange => exact ⟨.componentRange, exec_lookup_error (mapValue_badRange hst), rfl⟩

/-! ## Preset names -/

/-- A name of the table is read as its place in the table (41_palette_mapper.md R135). -/
theorem parsePreset_name {name : String} {pid : Nat} (h : presetNames[pid]? = some name) :
    parsePreset name.toList = some pid :=
  (parsePreset_iff _ _).2 (.inr ⟨name, h, rfl⟩)

/-! ## The obligations -/

/-- Settles O20: the four writes are made one after the other, each to an entry of its own. -/
theorem loadPalLoadsFourExpressions : Obligations.LoadPalLoadsFourExpressions := by
  intro s e0 e1 e2 e3 rest hb hm
  exact ⟨_, run_loadPal hb hm, palWord_entryOfWord_entryWord e0, palWord_entryOfWord_entryWord e1,
    palWord_entryOfWord_entryWord e2, palWord_entryOfWord_entryWord e3⟩

/-- Settles O23: the word written for an expression stores the class of its resolution. -/
theorem loadTimeResolutionEqualsLazyResolution :
    Obligations.LoadTimeResolutionEqualsLazyResolution := by
  intro exprs pal h v
  have hentry : pal.get (palIndex v) = classify (resolve (exprs.get (palIndex v))) :=
    (h (palIndex v)).trans (entryOfWord_entryWord _)
  exact mapValue_eq_lazyMap hentry

/-- Settles O21: a PID below 15 is legal, and the preset's palette is the ROM's colors, VALID. -/
theorem presetLoadsPalette : Obligations.PresetLoadsPalette := by
  intro s pid h
  refine ⟨presetPalette s.presetRom ⟨pid.toNat, h⟩, ?_, presetPalette_get _ _⟩
  rw [exec_preset s h, State.finish_quiet_ok]

/-- Settles O22: a VALID entry maps to its color, any other to the error of its status. -/
theorem lookupMapsOneValue : Obligations.LookupMapsOneValue := by
  rintro s v e rfl
  refine ⟨fun hst => ?_, fun hst => ?_⟩
  · rw [exec_lookup_ok (mapValue_valid hst), State.finish_quiet_ok]
    rfl
  · obtain ⟨kind, hexec, hcode⟩ := exec_lookup_bad hst
    rw [hexec, State.finish_quiet_error, hcode]
    rfl

/-- Settles O57: each name stands in the table at the place of its id. -/
theorem presetNamesAndIds : Obligations.PresetNamesAndIds :=
  ⟨parsePreset_name rfl, parsePreset_name rfl, parsePreset_name rfl, parsePreset_name rfl,
    parsePreset_name rfl, parsePreset_name rfl, parsePreset_name rfl, parsePreset_name rfl,
    parsePreset_name rfl, parsePreset_name rfl, parsePreset_name rfl, parsePreset_name rfl,
    parsePreset_name rfl, parsePreset_name rfl, parsePreset_name rfl, rfl⟩

end Sys2Proof.Machine
end

section
/-! Proofs of the statements of 42_tile_decoder.md: the unpacker as bits and as numbers, the image of a
slot from its bytes, and the words of DECODE_SLOT at their positions. -/

namespace Sys2Proof.Machine
open Sys2Proof

/-! ## The unpacker -/

/-- A lane as a number, from its two plane bits (42_tile_decoder.md R150). -/
theorem unpackLane_toNat (lo hi : Byte) (i : Nat) :
    (unpackLane lo hi i).toNat = (lo.getLsbD (7 - i)).toNat + 2 * (hi.getLsbD (7 - i)).toNat := by
  show BitVec.toNat (w := 1 + 1) (BitVec.ofBool _ ++ BitVec.ofBool _) = _
  rw [append_toNat, BitVec.toNat_ofBool, BitVec.toNat_ofBool]
  omega

/-- The lanes of equal planes are 0 or 3 (42_tile_decoder.md R151). -/
theorem unpackLane_self (b : Byte) (i : Nat) :
    unpackLane b b i = if b.getLsbD (7 - i) then 3#2 else 0#2 := by
  unfold unpackLane
  cases b.getLsbD (7 - i) <;> rfl

/-- Bit `i` of a plane, counted from the left, is a bit of lane `i`: bit 0 for the low plane and bit 1
for the high plane. -/
theorem unpack_get_bits (lo hi : Byte) (i : Fin 8) :
    ((unpack lo hi).get i).getLsbD 0 = lo.getMsbD i ∧
      ((unpack lo hi).get i).getLsbD 1 = hi.getMsbD i := by
  simp only [unpack_get, unpackLane, BitVec.getMsbD_eq_getLsbD, i.isLt]
  cases lo.getLsbD (7 - i.val) <;> cases hi.getLsbD (7 - i.val) <;> exact ⟨rfl, rfl⟩

/-- A pixel value is its two bits. -/
theorem pixel_ext {v w : Pixel} (h0 : v.getLsbD 0 = w.getLsbD 0) (h1 : v.getLsbD 1 = w.getLsbD 1) :
    v = w := by
  refine BitVec.eq_of_getLsbD_eq fun j hj => ?_
  change j < 2 at hj
  interval_cases j
  · exact h0
  · exact h1

/-- Two planes unpack to these lanes exactly when their bits, from the left, are the lanes' bits. -/
theorem unpack_eq_iff {lo hi : Byte} {lanes : Vector Pixel 8} : unpack lo hi = lanes ↔
    (∀ i : Fin 8, lo.getMsbD i = (lanes.get i).getLsbD 0) ∧
      ∀ i : Fin 8, hi.getMsbD i = (lanes.get i).getLsbD 1 := by
  constructor
  · rintro rfl
    exact ⟨fun i => (unpack_get_bits lo hi i).1.symm, fun i => (unpack_get_bits lo hi i).2.symm⟩
  · rintro ⟨hlo, hhi⟩
    refine Vector.ext fun i h => ?_
    obtain ⟨h0, h1⟩ := unpack_get_bits lo hi ⟨i, h⟩
    exact pixel_ext (h0.trans (hlo ⟨i, h⟩)) (h1.trans (hhi ⟨i, h⟩))

/-- The plane that holds bit `k` of the lanes, lane 0 leftmost. -/
def lanePlane (k : Nat) (lanes : Vector Pixel 8) : Byte :=
  BitVec.ofFnBE fun i => (lanes.get i).getLsbD k

theorem lanePlane_getMsbD (k : Nat) (lanes : Vector Pixel 8) (i : Fin 8) :
    (lanePlane k lanes).getMsbD i = (lanes.get i).getLsbD k := by
  rw [lanePlane, BitVec.getMsbD_ofFnBE, dif_pos i.isLt]

/-! ## RESULT of UNPACK -/

/-- A fold of word additions adds up the numbers, modulo the word size. -/
theorem foldl_add_toNat {α : Type} (f : α → Word) (xs : List α) (w : Word) :
    (xs.foldl (fun w x => w + f x) w).toNat =
      (w.toNat + (xs.map fun x => (f x).toNat).sum) % 2 ^ 32 := by
  induction xs generalizing w with
  | nil => exact (Nat.mod_eq_of_lt w.isLt).symm
  | cons x xs ih =>
    rw [List.foldl_cons, ih, BitVec.toNat_add, Nat.mod_add_mod, List.map_cons, List.sum_cons,
      Nat.add_assoc]

/-- Lane `i` at its place in RESULT, as a number. -/
theorem shiftedLane_toNat (v : Pixel) (i : Fin 8) :
    (v.setWidth 32 <<< (2 * i.val)).toNat = v.toNat * 4 ^ i.val := by
  have hv := pixel_toNat_lt v
  have hplace : 2 ^ (2 * i.val) ≤ 2 ^ 14 := Nat.pow_le_pow_right (by decide) (by omega)
  have hlt : v.toNat * 2 ^ (2 * i.val) < 4 * 2 ^ 14 := Nat.mul_lt_mul_of_lt_of_le hv hplace (by decide)
  rw [shifted_toNat (BitVec.toNat_setWidth_of_le (by decide)) (hlt.trans (by decide)), Nat.pow_mul]

/-- The lanes as digits in base 4. -/
def laneDigits (lanes : Vector Pixel 8) (i : Fin 8) : Fin 4 := (lanes.get i).toFin

/-- RESULT of UNPACK as a number has the lanes as its base-4 digits (42_tile_decoder.md R164). -/
theorem packLanes_toNat (lanes : Vector Pixel 8) :
    (packLanes lanes).toNat = (finFunctionFinEquiv (laneDigits lanes)).val := by
  have hsum : ((List.finRange 8).map fun i : Fin 8 =>
      ((lanes.get i).setWidth 32 <<< (2 * i.val)).toNat).sum =
        (finFunctionFinEquiv (laneDigits lanes)).val := by
    simp only [shiftedLane_toNat, finFunctionFinEquiv_apply, Fin.sum_univ_def, laneDigits,
      BitVec.val_toFin]
  have hlt : (finFunctionFinEquiv (laneDigits lanes)).val < 2 ^ 32 := lt_trans (Fin.isLt _) (by decide)
  have hfold : packLanes lanes = (List.finRange 8).foldl
      (fun w i => w + (lanes.get i).setWidth 32 <<< (2 * i.val)) 0#32 := rfl
  rw [hfold, foldl_add_toNat, hsum, BitVec.toNat_zero, Nat.zero_add, Nat.mod_eq_of_lt hlt]

/-- Only RESULT bits [15:0] hold lanes. -/
theorem packLanes_lt (lanes : Vector Pixel 8) : (packLanes lanes).toNat < 2 ^ 16 := by
  rw [packLanes_toNat]
  exact Fin.isLt _

/-- Digit `i` of RESULT in base 4 is lane `i`. -/
theorem packLanes_digit (lanes : Vector Pixel 8) (i : Fin 8) :
    (packLanes lanes).toNat / 4 ^ i.val % 4 = (lanes.get i).toNat := by
  have hdigit : finFunctionFinEquiv.symm (finFunctionFinEquiv (laneDigits lanes)) i =
      laneDigits lanes i :=
    congrFun (Equiv.symm_apply_apply _ _) i
  rw [packLanes_toNat]
  exact congrArg Fin.val hdigit

/-! ## The image of a slot -/

/-- A pixel as a number, from the two bytes of its row (42_tile_decoder.md R150, R153). -/
theorem pixel_toNat (m : Memory) (s y c : Nat) : (pixel m s y c).toNat =
    ((m.read (rowOffset s y (c / 8))).getLsbD (7 - c % 8)).toNat +
      2 * ((m.read (rowOffset s y (c / 8) + 1)).getLsbD (7 - c % 8)).toNat :=
  unpackLane_toNat _ _ _

/-- In a region of one byte's copies every pixel is a lane of that byte with itself. -/
theorem pixel_of_solid {m : Memory} {s y c : Nat} {b : Byte}
    (h : ∀ a, baseOffset s ≤ a → a < baseOffset s + 0x1000 → m.read a = b)
    (hy : y < 112) (hc : c < 128) : pixel m s y c = unpackLane b b (c % 8) := by
  have htile : ∀ a, tileByte s a → m.read a = b := fun a ha =>
    h a ha.1 (ha.2.trans (Nat.add_lt_add_left (by decide) _))
  obtain ⟨hlow, hhigh⟩ := rowOffset_tileByte s hy hc
  exact congrArg₂ (unpackLane · · (c % 8)) (htile _ hlow) (htile _ hhigh)

/-! ## Positions in row-major order -/

/-- Pairs in row-major order are the quotients and remainders of their positions. -/
theorem range_flatMap_pairs (h w : Nat) :
    ((List.range h).flatMap fun y => (List.range w).map fun c => (y, c)) =
      (List.range (h * w)).map fun n => (n / w, n % w) := by
  induction h with
  | zero => simp
  | succ h ih =>
    have hrow : ((List.range w).map fun c => (h, c)) =
        (List.range w).map fun c => ((h * w + c) / w, (h * w + c) % w) := by
      refine List.map_congr_left fun c hc => ?_
      have hcw : c < w := List.mem_range.1 hc
      rw [Nat.mul_add_mod', Nat.mod_eq_of_lt hcw, Nat.mul_comm, Nat.mul_add_div (by omega),
        Nat.div_eq_of_lt hcw, Nat.add_zero]
    rw [List.range_succ, List.flatMap_append, ih, List.flatMap_singleton, hrow, Nat.succ_mul,
      List.range_add, List.map_append, List.map_map]
    rfl

/-- The pixel (y, c) has position `128 * y + c` of its image (42_tile_decoder.md R158). -/
theorem rowMajor_getElem? {y c : Nat} (hy : y < 112) (hc : c < 128) :
    rowMajor[128 * y + c]? = some (y, c) := by
  have hdiv : (128 * y + c) / 128 = y := by omega
  have hmod : (128 * y + c) % 128 = c := by omega
  have hpos : 128 * y + c < Config.imgH * Config.imgW := by show _ < 112 * 128; omega
  rw [rowMajor, range_flatMap_pairs, List.getElem?_map, List.getElem?_range hpos, Option.map_some,
    hdiv, hmod]

theorem slotWords_length (m : Memory) (slot : BitVec 5) : (slotWords m slot).length = 14338 := by
  simp [slotWords, rowMajor_length]

/-- The PV word of pixel (y, c) is at position `1 + 128 * y + c` (42_tile_decoder.md R161). -/
theorem slotWords_getElem?_pixel (m : Memory) (slot : BitVec 5) {y c : Nat} (hy : y < 112)
    (hc : c < 128) :
    (slotWords m slot)[1 + 128 * y + c]? = some (pvWord (pixel m slot.toNat y c)) := by
  have hpos : 1 + 128 * y + c = 128 * y + c + 1 := by omega
  rw [slotWords, hpos, List.getElem?_append_left (by simp [rowMajor_length]; omega),
    List.getElem?_cons_succ, List.getElem?_map, rowMajor_getElem? hy hc, Option.map_some]

theorem slotWords_getElem?_last (m : Memory) (slot : BitVec 5) :
    (slotWords m slot)[14337]? = some (endWord 1#8) := by
  rw [slotWords, List.getElem?_append_right (by simp [rowMajor_length])]
  simp [rowMajor_length]

/-! ## The obligations -/

/-- Settles O24: a lane of the vector is its formula. -/
theorem unpackLanesFromPlanes : Obligations.UnpackLanesFromPlanes := by
  intro lo hi i
  rw [unpack_get, unpackLane_toNat]

/-- Settles O25: the lanes fix the planes' bits, and the planes made of any lanes' bits unpack to them. -/
theorem unpackIsBijection : Obligations.UnpackIsBijection := by
  refine ⟨fun lo hi lo' hi' h => ?_, fun lanes => ⟨lanePlane 0 lanes, lanePlane 1 lanes, ?_⟩,
    by decide, by decide, by decide, by decide, by decide, fun b i => ?_⟩
  · obtain ⟨hlo, hhi⟩ := unpack_eq_iff.1 h
    obtain ⟨hlo', hhi'⟩ := unpack_eq_iff.1 (rfl : unpack lo' hi' = unpack lo' hi')
    exact ⟨BitVec.eq_of_getMsbD_eq fun i h8 => (hlo ⟨i, h8⟩).trans (hlo' ⟨i, h8⟩).symm,
      BitVec.eq_of_getMsbD_eq fun i h8 => (hhi ⟨i, h8⟩).trans (hhi' ⟨i, h8⟩).symm⟩
  · exact unpack_eq_iff.2 ⟨lanePlane_getMsbD 0 lanes, lanePlane_getMsbD 1 lanes⟩
  · rw [unpack_get, unpackLane_self]
    cases b.getLsbD (7 - i.val)
    · exact .inl rfl
    · exact .inr rfl

/-- Settles O26: as numbers, the concatenation is the same sum of fields, each times its place. -/
theorem rowOffsetIsConcatenation : Obligations.RowOffsetIsConcatenation := by
  intro s y x hs hy hx
  have hsum := rowOffset_eq s y x
  refine ⟨hsum, ?_, by omega, by omega, fun m => ⟨rfl, rfl⟩⟩
  simp only [hsum, append_toNat, BitVec.toNat_ofNat]
  omega

/-- Settles O28: the two ends of DECODE_SLOT for a slot in range, with the words at their positions. -/
theorem decodeSlotStream : Obligations.DecodeSlotStream := by
  intro s slot hslot
  obtain ⟨hhdr, -, hpv, hend, -⟩ := streamWordFormats
  refine ⟨fun hl => ⟨slotWords s.saveBuffer slot, ?_, slotWords_length _ _, ?_, fun y c hy hc => ?_, ?_⟩,
    fun hl => ?_⟩
  · rw [exec_decodeSlot hslot hl, State.finish_ok_eq]
  · exact congrArg some (hhdr slot 1#8)
  · rw [slotWords_getElem?_pixel _ _ hy hc, hpv]
  · rw [slotWords_getElem?_last]; rfl
  · rw [exec_decodeSlot_badLength hslot hl, State.finish_error_eq]; rfl

/-- Settles O29: the same words on both buffers, as all pixels agree; a wrong length reads neither. -/
theorem decodeSlotDependsOnItsTiles : Obligations.DecodeSlotDependsOnItsTiles := by
  intro s m slot hslot h
  by_cases hl : s.bufLen = saveSizeWord
  · have hwords := slotWords_congr (slot := slot) (pixel_eq_of_tile h)
    exact ⟨_, exec_decodeSlot hslot hl,
      hwords ▸ exec_decodeSlot (s := { s with saveBuffer := m }) hslot hl⟩
  · exact ⟨_, exec_decodeSlot_badLength hslot hl, exec_decodeSlot_badLength hslot hl⟩

/-- Settles O30: in a solid region a pixel is a lane of two equal planes, all bits 0 or all bits 1. -/
theorem solidRegionsDecode : Obligations.SolidRegionsDecode := by
  intro m s _
  refine ⟨fun h y c hy hc => ?_, fun h y c hy hc => ?_⟩
  · rw [pixel_of_solid h hy hc, unpackLane_self]
    simp
  · have hbit : (0xFF#8).getLsbD (7 - c % 8) = true :=
      (BitVec.getLsbD_allOnes (v := 8)).trans (decide_eq_true (by omega))
    rw [pixel_of_solid h hy hc, unpackLane_self, if_pos hbit]

/-- Settles O32: lane i is digit i of RESULT in base 4. -/
theorem unpackPacksLanes : Obligations.UnpackPacksLanes := by
  intro s lo hi
  refine ⟨packLanes (unpack lo hi), ?_, fun i => BitVec.eq_of_toNat_eq ?_, BitVec.eq_of_toNat_eq ?_⟩
  · rw [exec_unpack, State.finish_quiet_ok]
  · rw [field_toNat, Nat.pow_mul]
    exact packLanes_digit _ i
  · rw [field_toNat, Nat.div_eq_of_lt (packLanes_lt _)]
    rfl

/-- Settles O27: the row offset in numbers. -/
theorem pixelFromBytePair : Obligations.PixelFromBytePair := by
  intro m s y c _ _ _
  rw [pixel_toNat, rowOffset_eq]

end Sys2Proof.Machine
end

section
/-! Proofs of the statements of 43_save_decoder.md: the loop over slots as the loop over the selected
ones, the images it puts out before END or before the first failing pixel, and what HDR words tell of
them. -/

namespace Sys2Proof.Machine
open Sys2Proof

/-! ## The loop over slots -/

/-- A slot that the loop emits (43_save_decoder.md R181). -/
def slotSelected (m : Memory) (inc : Bool) (slot : Nat) : Bool := inc || active m slot

theorem selectedSlots_eq (m : Memory) (inc : Bool) :
    selectedSlots m inc = (List.range 30).filter (slotSelected m inc) := rfl

theorem slotSelected_iff (m : Memory) (inc : Bool) (slot : Nat) :
    slotSelected m inc slot = true ↔ inc = true ∨ m.read (0x11B2 + slot) ≠ 0xFF#8 := by
  simp [slotSelected, active, flagOffset]

theorem mem_selectedSlots {m : Memory} {inc : Bool} {slot : Nat} :
    slot ∈ selectedSlots m inc ↔ slot < 30 ∧ (inc = true ∨ m.read (0x11B2 + slot) ≠ 0xFF#8) := by
  rw [selectedSlots_eq, List.mem_filter, List.mem_range, slotSelected_iff]

theorem slotSelected_of_mem {m : Memory} {inc : Bool} {slot : Nat} (h : slot ∈ selectedSlots m inc) :
    slotSelected m inc slot = true :=
  (slotSelected_iff m inc slot).2 (mem_selectedSlots.1 h).2

/-- A slot that is skipped "leaves no trace": the loop is that over the selected slots alone
(43_save_decoder.md R181). -/
theorem decodeSlots_filter (pal : Palette) (m : Memory) (inc : Bool) (slots : List Nat) (n : Nat) :
    decodeSlots pal m inc slots n = decodeSlots pal m inc (slots.filter (slotSelected m inc)) n := by
  induction slots generalizing n with
  | nil => rfl
  | cons slot rest ih =>
    cases h : slotSelected m inc slot with
    | false => rw [List.filter_cons_of_neg (by simp [h]), decodeSlots_skip _ _ _ _ _ _ h, ih]
    | true => simp only [List.filter_cons_of_pos h, decodeSlots, ih]

/-- The images of `slots`, numbered from `n`. -/
def imagesFrom (pal : Palette) (m : Memory) (slots : List Nat) (n : Nat) : List Word :=
  (slots.zipIdx n).flatMap fun p => imageWords pal m p.1 p.2

theorem imagesWords_eq (pal : Palette) (m : Memory) (slots : List Nat) :
    imagesWords pal m slots = imagesFrom pal m slots 1 := rfl

theorem imagesFrom_cons (pal : Palette) (m : Memory) (slot : Nat) (slots : List Nat) (n : Nat) :
    imagesFrom pal m (slot :: slots) n = imageWords pal m slot n ++ imagesFrom pal m slots (n + 1) := rfl

/-- Selected slots of VALID pixels in front of a list only add their images in front. -/
theorem decodeSlots_append (pal : Palette) (m : Memory) (inc : Bool) (slots rest : List Nat) (n : Nat)
    (hsel : ∀ slot ∈ slots, slotSelected m inc slot = true)
    (hgood : ∀ slot ∈ slots, ∀ p ∈ rowMajor, ¬ pixelBad pal m slot p) :
    decodeSlots pal m inc (slots ++ rest) n =
      (imagesFrom pal m slots (n + 1) ++ (decodeSlots pal m inc rest (n + slots.length)).1,
        (decodeSlots pal m inc rest (n + slots.length)).2) := by
  induction slots generalizing n with
  | nil => rfl
  | cons slot slots ih =>
    obtain ⟨hs, hsel⟩ := List.forall_mem_cons.1 hsel
    obtain ⟨hg, hgood⟩ := List.forall_mem_cons.1 hgood
    have hn : n + 1 + slots.length = n + (slots.length + 1) := by omega
    rw [List.cons_append, decodeSlots_emit pal m inc slot n _ hs hg, ih (n + 1) hsel hgood, hn]
    simp only [imagesFrom_cons, List.append_assoc, List.length_cons]

/-- DECODE_SAVE's loop when no selected slot has a failing pixel (43_save_decoder.md R184). -/
theorem decodeSlots_success {pal : Palette} {m : Memory} {inc : Bool}
    (hgood : ∀ slot ∈ selectedSlots m inc, ∀ p ∈ rowMajor, ¬ pixelBad pal m slot p) :
    decodeSlots pal m inc (List.range Config.numSlots) 0 =
      (imagesWords pal m (selectedSlots m inc) ++
          [endWord (BitVec.ofNat 8 (selectedSlots m inc).length)],
        .ok (selectedSlots m inc).length) := by
  have h := decodeSlots_append pal m inc _ [] 0 (fun _ => slotSelected_of_mem) hgood
  simp only [List.append_nil, Nat.zero_add] at h
  exact (decodeSlots_filter ..).trans h

/-- DECODE_SAVE's loop when `(y, c)` of `slot` is the first failing pixel (43_save_decoder.md R184). -/
theorem decodeSlots_failure {pal : Palette} {m : Memory} {inc : Bool} {before after : List Nat}
    {slot : Nat} {ps qs : List (Nat × Nat)} {y c : Nat} {kind : ErrorKind}
    (hs : selectedSlots m inc = before ++ slot :: after) (hr : rowMajor = ps ++ (y, c) :: qs)
    (hbefore : ∀ b ∈ before, ∀ p ∈ rowMajor, ¬ pixelBad pal m b p)
    (hps : ∀ p ∈ ps, ¬ pixelBad pal m slot p)
    (hbad : mapValue pal (pixel m slot y c) = .error (kind, pixel m slot y c)) :
    decodeSlots pal m inc (List.range Config.numSlots) 0 =
      (imagesWords pal m before ++
          hdrWord (BitVec.ofNat 5 slot) (BitVec.ofNat 8 (before.length + 1)) ::
            ps.map (pixOf pal m slot),
        .error ⟨kind, pixel m slot y c, slot, y, c⟩) := by
  have hsel : ∀ b ∈ before ++ slot :: after, slotSelected m inc b = true :=
    fun b hb => slotSelected_of_mem (hs ▸ hb)
  obtain ⟨hsel, hslot⟩ := List.forall_mem_append.1 hsel
  rw [decodeSlots_filter, ← selectedSlots_eq, hs, decodeSlots_append pal m inc before _ 0 hsel hbefore,
    decodeSlots_stop pal m inc slot _ after ps qs y c kind (hslot slot List.mem_cons_self) hr hps hbad]
  simp only [Nat.zero_add, imagesWords_eq]

/-! ## Failing pixels -/

/-- Using a BAD entry raises the error of its status (10_state.md R34; 41_palette_mapper.md R137). -/
theorem mapValue_bad {pal : Palette} {v : Pixel} (h : (pal.get (palIndex v)).st ≠ .valid) :
    ∃ kind, mapValue pal v = .error (kind, v) ∧ kind.code = useCode (pal.get (palIndex v)).st := by
  cases hst : (pal.get (palIndex v)).st with
  | valid => exact absurd hst h
  | badCode => exact ⟨.invalidColorCode, mapValue_badCode hst, rfl⟩
  | badRange => exact ⟨.componentRange, mapValue_badRange hst, rfl⟩

/-- ERR_INFO1 of a pixel of a slot, in numbers (43_save_decoder.md R183). -/
theorem positionInfo_eq {s y c : Nat} (hs : s < 30) (hp : (y, c) ∈ rowMajor) :
    positionInfo s y c = BitVec.ofNat 32 (s * 65536 + y * 256 + c) := by
  obtain ⟨hy, hc⟩ := mem_rowMajor.1 hp
  apply BitVec.eq_of_toNat_eq
  rw [positionInfo_toNat s y c (by omega) (by omega) hc, toNat_ofNat_of_lt (by omega)]
  omega

/-- A list with an element of a property has a first one. -/
theorem exists_first {α : Type} {P : α → Prop} {l : List α} (h : ∃ x ∈ l, P x) :
    ∃ as x bs, l = as ++ x :: bs ∧ (∀ a ∈ as, ¬ P a) ∧ P x := by
  classical
  obtain ⟨x, hx⟩ := Option.isSome_iff_exists.1
    (List.find?_isSome.2 (by simpa using h : ∃ x ∈ l, decide (P x) = true))
  obtain ⟨hP, as, bs, hl, has⟩ := List.find?_eq_some_iff_append.1 hx
  exact ⟨as, x, bs, hl, by simpa using has, by simpa using hP⟩

/-! ## The words of the images -/

theorem imageWords_length (pal : Palette) (m : Memory) (slot n : Nat) :
    (imageWords pal m slot n).length = 14337 := by
  simp [imageWords, rowMajor_length]

theorem imagesWords_length (pal : Palette) (m : Memory) (slots : List Nat) :
    (imagesWords pal m slots).length = slots.length * 14337 := by
  simp [imagesWords, List.length_flatMap, imageWords_length]

/-- A word of tag HDR (30_encoding.md R88, R93). -/
def isHdr (w : Word) : Bool := w.extractLsb' 28 4 == 0x1#4

@[simp] theorem isHdr_hdrWord (slot : BitVec 5) (n : BitVec 8) : isHdr (hdrWord slot n) = true := by
  rw [isHdr, hdrWord_tag]; rfl

@[simp] theorem isHdr_pixWord (c : Rgb) : isHdr (pixWord c) = false := by
  rw [isHdr, pixWord_tag]; rfl

@[simp] theorem isHdr_endWord (k : BitVec 8) : isHdr (endWord k) = false := by
  rw [isHdr, endWord_tag]; rfl

/-- An image has one HDR word, its first. -/
theorem imageWords_filter_isHdr (pal : Palette) (m : Memory) (slot n : Nat) :
    (imageWords pal m slot n).filter isHdr = [hdrWord (BitVec.ofNat 5 slot) (BitVec.ofNat 8 n)] := by
  have hpix : (rowMajor.map (pixOf pal m slot)).filter isHdr = [] := by
    rw [List.filter_map]
    simp [Function.comp_def, pixOf]
  rw [imageWords, List.filter_cons_of_pos (isHdr_hdrWord _ _), hpix]

/-- The HDR words of the images name their slots and their numbers (43_save_decoder.md R181). -/
theorem imagesWords_filter_isHdr (pal : Palette) (m : Memory) (slots : List Nat) :
    (imagesWords pal m slots).filter isHdr =
      (slots.zipIdx 1).map fun p => hdrWord (BitVec.ofNat 5 p.1) (BitVec.ofNat 8 p.2) := by
  simp only [imagesWords, List.filter_flatMap, imageWords_filter_isHdr]
  exact List.map_eq_flatMap.symm

/-! ## The slots selected -/

theorem selectedSlots_pairwise (m : Memory) (inc : Bool) : (selectedSlots m inc).Pairwise (· < ·) :=
  List.pairwise_lt_range.filter _

theorem selectedSlots_length_le (m : Memory) (inc : Bool) : (selectedSlots m inc).length ≤ 30 :=
  (List.length_filter_le _ _).trans_eq List.length_range

theorem selectedSlots_inc (m : Memory) : selectedSlots m true = List.range 30 :=
  List.filter_eq_self.2 fun _ _ => rfl

/-- Slot 0 alone is selected when it alone is active. -/
theorem selectedSlots_eq_zero {m : Memory} (h0 : m.read 0x11B2 ≠ 0xFF#8)
    (hrest : ∀ slot, 0 < slot → slot < 30 → m.read (0x11B2 + slot) = 0xFF#8) :
    selectedSlots m false = [0] := by
  have hsel : slotSelected m false 0 = true := (slotSelected_iff m false 0).2 (.inr h0)
  have hrange : List.range 30 = 0 :: List.range' 1 29 := rfl
  rw [selectedSlots_eq, hrange, List.filter_cons_of_pos hsel, List.filter_eq_nil_iff.2]
  intro slot hslot
  have hslot := List.mem_range'_1.1 hslot
  simpa [slotSelected_iff] using hrest slot (by omega) (by omega)

/-- An image of one pixel value is its header and 14336 equal PIX words (43_save_decoder.md R187). -/
theorem imageWords_solid {m : Memory} {slot : Nat} {v : Pixel} (pal : Palette) (n : Nat)
    (h : ∀ y c, y < 112 → c < 128 → pixel m slot y c = v) :
    imageWords pal m slot n = hdrWord (BitVec.ofNat 5 slot) (BitVec.ofNat 8 n) ::
      List.replicate 14336 (pixWord (pal.get (palIndex v)).color) := by
  rw [imageWords, ← rowMajor_length, List.map_eq_replicate_iff.2]
  rintro ⟨y, c⟩ hp
  obtain ⟨hy, hc⟩ := mem_rowMajor.1 hp
  rw [pixOf, h y c hy hc]

/-! ## The obligations -/

/-- Settles O34: the loop puts out the images of the selected slots and END. -/
theorem decodeSaveSuccessStream : Obligations.DecodeSaveSuccessStream := by
  intro s inc hl hgood
  rw [exec_decodeSave_ok hl (decodeSlots_success hgood), State.finish_ok_eq, ← List.append_assoc]

/-- Settles O35: the loop stops at that pixel, with the error of its entry. -/
theorem decodeSaveStopsAtFirstBadPixel : Obligations.DecodeSaveStopsAtFirstBadPixel := by
  intro s inc before after slot ps qs y c hl hs hr hbefore hps hbad
  obtain ⟨kind, hmap, hcode⟩ := mapValue_bad hbad
  have hslot : slot < 30 := (mem_selectedSlots.1 (by rw [hs]; simp : slot ∈ _)).1
  have hpos : (y, c) ∈ rowMajor := by rw [hr]; simp
  rw [exec_decodeSave_error hl (decodeSlots_failure hs hr hbefore hps hmap), State.finish_error_eq,
    positionInfo_eq hslot hpos, hcode]
  simp only [← List.append_assoc, entryInfo]

/-- A DECODE_SAVE that ends without error met no failing pixel: the first one would have stopped it. -/
theorem good_of_decodeSave_ok {s t : State} {inc : Bool} (hl : s.bufLen = 131072#32)
    (h : exec (.decodeSave inc) s = .next t) (herr : t.status.err = false) :
    ∀ slot ∈ selectedSlots s.saveBuffer inc, ∀ p ∈ rowMajor, ¬ pixelBad s.pal s.saveBuffer slot p := by
  by_contra hbad
  push Not at hbad
  obtain ⟨before, slot, after, hs, hbefore, hslot⟩ := exists_first hbad
  obtain ⟨ps, ⟨y, c⟩, qs, hr, hps, hpix⟩ := exists_first hslot
  push Not at hbefore
  rw [decodeSaveStopsAtFirstBadPixel s inc before after slot ps qs y c hl hs hr hbefore hps hpix] at h
  cases h
  cases herr

/-- Settles O36: the command met no failing pixel, so O34 gives its words, and each image has one HDR. -/
theorem decodeSaveImagesAreSelectedSlots : Obligations.DecodeSaveImagesAreSelectedSlots := by
  intro s t inc hl h herr
  rw [decodeSaveSuccessStream s inc hl (good_of_decodeSave_ok hl h herr)] at h
  cases h
  refine ⟨_, selectedSlots s.saveBuffer inc, List.append_assoc _ _ _, fun _ => mem_selectedSlots,
    selectedSlots_pairwise _ _, ?_, ?_, ?_, ?_⟩
  · rintro rfl
    rw [selectedSlots_inc, List.length_range]
  · change List.filter isHdr _ = _
    rw [List.filter_append, imagesWords_filter_isHdr]
    simp
  · rw [List.length_append, imagesWords_length, List.length_singleton]
  · have hle := selectedSlots_length_le s.saveBuffer inc
    exact toNat_ofNat_of_lt (by omega)

/-- Settles O37: slot 0 alone is selected, and its image is of one color. -/
theorem solidSlotEndToEnd : Obligations.SolidSlotEndToEnd := by
  intro s v hl h0 hrest hsolid hvalid
  have hslots := selectedSlots_eq_zero h0 hrest
  have hgood : ∀ slot ∈ selectedSlots s.saveBuffer false, ∀ p ∈ rowMajor,
      ¬ pixelBad s.pal s.saveBuffer slot p := by
    rw [hslots]
    rintro slot hslot ⟨y, c⟩ hp
    obtain rfl := List.mem_singleton.1 hslot
    obtain ⟨hy, hc⟩ := mem_rowMajor.1 hp
    rw [pixelBad, hsolid y c hy hc]
    exact not_not.2 hvalid
  have himage : imagesWords s.pal s.saveBuffer [0] = 0x10000001#32 ::
      List.replicate 14336 (0x20000000#32 ||| rgbWord (s.pal.get (palIndex v)).color) := by
    obtain ⟨-, hpix, -⟩ := streamWordFormats
    rw [← (hpix _).1]
    exact (List.append_nil _).trans (imageWords_solid s.pal 1 hsolid)
  rw [decodeSaveSuccessStream s false hl hgood, hslots, himage]
  rfl

end Sys2Proof.Machine
end

section
/-! Proofs of the statements of 60_exceptions.md: the ways a command with operands in range can end, the
error that a BAD entry gives and the host reads back, and the length check. -/

namespace Sys2Proof.Machine
open Sys2Proof

/-! ## The ways a command ends -/

/-- The words of a command that raises `kind` after emitting `front` (60_exceptions.md R210). -/
def errorWords (i : Instr) (front : List Word) (kind : ErrorKind) : List Word :=
  if emits i then front ++ [abortWord kind.code] else []

theorem errorWords_quiet {i : Instr} (h : emits i = false) (front : List Word) (kind : ErrorKind) :
    errorWords i front kind = [] := by
  simp [errorWords, h]

theorem errorWords_emits {i : Instr} (h : emits i = true) (front : List Word) (kind : ErrorKind) :
    errorWords i front kind = front ++ [abortWord kind.code] := if_pos h

/-- The command does not read the buffer, or BUF_LEN passes its check (60_exceptions.md R206). -/
def LengthOk (i : Instr) (s : State) : Prop := readsBuffer i = false ∨ s.bufLen = saveSizeWord

theorem LengthOk.bufLen_eq {i : Instr} {s : State} (h : LengthOk i s) (hr : readsBuffer i = true) :
    s.bufLen = saveSizeWord :=
  h.resolve_left (Bool.not_eq_false _ ▸ hr)

/-- The ways a command with operands in range can end: with a result, with the error of the length
check, or with the error of a BAD entry (60_exceptions.md R208). -/
inductive CommandEnd (i : Instr) (s : State) : Prop
  | result (pal : Palette) (words : List Word) (v : Word) (length : LengthOk i s)
      (ends : exec i s = .next ({ s with pal := pal }.finish words (.ok v)))
  | badLength (reads : readsBuffer i = true) (length : s.bufLen ≠ saveSizeWord)
      (ends : exec i s = .next (s.finish (errorWords i [] .invalidFileSize)
        (.error .invalidFileSize saveSizeWord s.bufLen)))
  | badEntry (kind : ErrorKind) (v entry : Pixel) (position : Word) (front : List Word)
      (user : (∃ value, i = .lookup value) ∨ ∃ inc, i = .decodeSave inc) (length : LengthOk i s)
      (maps : mapValue s.pal v = .error (kind, entry))
      (ends : exec i s = .next (s.finish (errorWords i front kind)
        (.error kind (entryInfo entry) position)))

/-- A command that reads the buffer checks BUF_LEN before all else (60_exceptions.md R201, R206). -/
theorem exec_badLength {i : Instr} {s : State} (hw : i.wellFormed = true) (hr : readsBuffer i = true)
    (hl : s.bufLen ≠ saveSizeWord) :
    exec i s = .next (s.finish (errorWords i [] .invalidFileSize)
      (.error .invalidFileSize saveSizeWord s.bufLen)) := by
  cases i with
  | decodeSlot slot => exact exec_decodeSlot_badLength (of_decide_eq_true hw) hl
  | decodeSave inc => exact exec_decodeSave_badLength inc hl
  | checkActive slot => exact exec_checkActive_badLength (of_decide_eq_true hw) hl
  | preset | lookup | unpack => simp [readsBuffer] at hr

/-- A command with operands in range ends in one of these ways. -/
theorem commandEnd {i : Instr} (s : State) (hw : i.wellFormed = true) : CommandEnd i s := by
  by_cases hlen : LengthOk i s
  · cases i with
    | preset pid => exact .result _ _ _ hlen (exec_preset s (of_decide_eq_true hw))
    | lookup v =>
      rcases hv : mapValue s.pal v with ⟨kind, entry⟩ | color
      · exact .badEntry kind v entry _ [] (.inl ⟨v, rfl⟩) hlen hv (exec_lookup_error hv)
      · exact .result s.pal _ _ hlen (exec_lookup_ok hv)
    | unpack lo hi => exact .result s.pal _ _ hlen (exec_unpack s lo hi)
    | checkActive slot =>
      exact .result s.pal _ _ hlen (exec_checkActive (of_decide_eq_true hw) (hlen.bufLen_eq rfl))
    | decodeSlot slot =>
      exact .result s.pal _ _ hlen (exec_decodeSlot (of_decide_eq_true hw) (hlen.bufLen_eq rfl))
    | decodeSave inc =>
      have hl : s.bufLen = saveSizeWord := hlen.bufLen_eq rfl
      rcases hd : decodeSlots s.pal s.saveBuffer inc (List.range Config.numSlots) 0 with ⟨words, f | n⟩
      · obtain ⟨slot, -, -, p, -, hmap, -⟩ := decodeSlots_fail (congrArg Prod.snd hd)
        exact .badEntry f.kind _ f.entry _ words (.inr ⟨inc, rfl⟩) hlen hmap (exec_decodeSave_error hl hd)
      · exact .result s.pal words _ hlen (exec_decodeSave_ok hl hd)
  · obtain ⟨hr, hl⟩ := not_or.1 hlen
    have hr : readsBuffer i = true := eq_true_of_ne_false hr
    exact .badLength hr hl (exec_badLength hw hr hl)

/-- A command that ends in an error left all but its words, its error and `pending` as they were
(60_exceptions.md R209). -/
theorem exec_error {i : Instr} {s t : State} (hw : i.wellFormed = true) (h : exec i s = .next t)
    (herr : t.status.err = true) :
    ∃ front kind i0 i1, t = s.finish (errorWords i front kind) (.error kind i0 i1) := by
  cases commandEnd s hw with
  | result pal words v _ ends =>
    cases h.symm.trans ends
    cases herr
  | badLength _ _ ends =>
    cases h.symm.trans ends
    exact ⟨_, _, _, _, rfl⟩
  | badEntry _ _ _ _ _ _ _ _ ends =>
    cases h.symm.trans ends
    exact ⟨_, _, _, _, rfl⟩

/-! ## BAD entries -/

/-- A mapping fails exactly at a BAD entry, with the error of its status (41_palette_mapper.md R137). -/
theorem mapValue_eq_error_iff {pal : Palette} {v entry : Pixel} {kind : ErrorKind} :
    mapValue pal v = .error (kind, entry) ↔ entry = v ∧
      ((kind = .invalidColorCode ∧ (pal.get (palIndex v)).st = .badCode) ∨
        kind = .componentRange ∧ (pal.get (palIndex v)).st = .badRange) := by
  cases hst : (pal.get (palIndex v)).st with
  | valid => simp [mapValue_valid hst]
  | badCode => simp [mapValue_badCode hst, eq_comm, and_comm]
  | badRange => simp [mapValue_badRange hst, eq_comm, and_comm]

/-- The class BAD_CODE is that of the expressions that do not resolve (40_color_resolver.md R111). -/
theorem classify_st_badCode_iff (e : ColorExpr) :
    (classify (resolve e)).st = .badCode ↔ resolve e = .error (.invalidColorCode e) := by
  rcases h : resolve e with err | ⟨r, g, b⟩
  · obtain ⟨rfl, -⟩ := (resolve_eq_error_iff e err).1 h
    exact iff_of_true rfl rfl
  · by_cases hle : max r (max g b) ≤ 255
    · simp [classify_of_le hle]
    · simp [classify_of_gt (Nat.not_le.1 hle)]

/-- The class BAD_RANGE is that of the colors with a component above 255 (40_color_resolver.md R111). -/
theorem classify_st_badRange_iff (e : ColorExpr) : (classify (resolve e)).st = .badRange ↔
    ∃ r g b, resolve e = .ok (r, g, b) ∧ 255 < max r (max g b) := by
  rcases resolve e with err | ⟨r, g, b⟩
  · simp [classify]
  · by_cases hle : max r (max g b) ≤ 255
    · refine iff_of_false (by simp [classify_of_le hle]) ?_
      rintro ⟨_, _, _, ⟨⟩, hgt⟩
      exact Nat.not_le.2 hgt hle
    · have hgt := Nat.not_le.1 hle
      exact iff_of_true (by rw [classify_of_gt hgt]) ⟨r, g, b, rfl, hgt⟩

/-! ## Reading an error back -/

/-- ERR_INFO0 of a palette error names its entry (10_state.md R30). -/
theorem entryInfo_setWidth (v : Pixel) : (entryInfo v).setWidth Config.pixelBits = v := by
  simp [entryInfo]

/-- The host's reading of InvalidColorCode. -/
theorem recoverError_invalidColorCode (exprs : Vector ColorExpr Config.palEntries) (s : State)
    (words : List Word) (v : Pixel) (position : Word) :
    recoverError exprs (s.finish words (.error .invalidColorCode (entryInfo v) position)) =
      some (.invalidColorCode (exprs.get (palIndex v))) := by
  simp [recoverError, offendingExpression, entryInfo_setWidth, ErrorKind.code]

/-- The host's reading of ComponentRange. -/
theorem recoverError_componentRange (exprs : Vector ColorExpr Config.palEntries) (s : State)
    (words : List Word) (v : Pixel) (position : Word) :
    recoverError exprs (s.finish words (.error .componentRange (entryInfo v) position)) =
      some (.componentRange (exprs.get (palIndex v))) := by
  simp [recoverError, offendingExpression, entryInfo_setWidth, ErrorKind.code]

/-- The host's reading of InvalidFileSize. -/
theorem recoverError_invalidFileSize (exprs : Vector ColorExpr Config.palEntries) (s : State)
    (words : List Word) (expected actual : Word) :
    recoverError exprs (s.finish words (.error .invalidFileSize expected actual)) =
      some (.invalidFileSize expected actual) := by
  simp [recoverError, ErrorKind.code]

/-! ## Setting the length -/

/-- Saturation at 0xFFFFFFFF takes no length to 131072 (10_state.md R28). -/
theorem reportedLength_eq_saveSize_iff (len : Nat) : reportedLength len = saveSizeWord ↔ len = 131072 := by
  have hsave : saveSizeWord.toNat = 131072 := rfl
  rw [BitVec.toNat_eq, reportedLength_toNat, hsave]
  omega

/-- SETLEN while idle writes the reported length. -/
theorem step_setLen {s : State} {len : Nat} {rest : List HostMove} (hb : s.status.busy = false)
    (hm : s.hostMoves = setLen len ++ rest) :
    step s = .next { s with bufLen := reportedLength len, hostMoves := rest } := by
  obtain ⟨-, hidle⟩ := bufLenWriteStoresOrDrops s (reportedLength len) rest hm
  exact hidle hb

/-! ## The obligations -/

/-- Settles O40 by the length check, which a saturated length of another value fails too. -/
theorem bufferCommandsCheckLength : Obligations.BufferCommandsCheckLength := by
  refine ⟨fun s i hw hr hl => exec_badLength hw hr hl, fun s len rest hb hm =>
    ⟨_, step_setLen hb hm, rfl, reportedLength_toNat len, reportedLength_eq_saveSize_iff len,
      fun i hw hr hlen => ?_⟩⟩
  have hl : reportedLength len ≠ saveSizeWord := (reportedLength_eq_saveSize_iff len).not.2 hlen
  exact ⟨_, exec_badLength hw hr hl, rfl, rfl, reportedLength_toNat len, rfl⟩

/-- Settles O42: a decoded command's error ends it on the state it found, and so does an illegal word. -/
theorem errorsArePrecise : Obligations.ErrorsArePrecise := by
  intro s t w hnext hp hstep herr
  rw [step_of_blockNext hnext hp] at hstep
  rcases perform_cases w s with ⟨i, hi, hperf⟩ | ⟨⟨e, he⟩, hperf⟩
  · obtain ⟨front, kind, i0, i1, rfl⟩ :=
      exec_error (decode_wellFormed hi) (hperf.symm.trans hstep) herr
    refine ⟨errorWords i front kind, rfl, fun h => errorWords_quiet (h i hi) _ _, fun j hj hem => ?_⟩
    cases hi.symm.trans hj
    exact ⟨front, errorWords_emits hem _ _⟩
  · cases hstep.symm.trans hperf
    refine ⟨[], rfl, fun _ => rfl, fun j hj => ?_⟩
    cases he.symm.trans hj

/-- Settles O44: by the decoded word, and then by the ways its command ends. -/
theorem errorPriority : Obligations.ErrorPriority := by
  intro s w hnext hp
  rw [step_of_blockNext hnext hp]
  rcases perform_cases w s with ⟨i, hi, hperf⟩ | ⟨⟨e, he⟩, hperf⟩
  · simp only [hperf, hi, Except.ok.injEq, forall_eq', reduceCtorEq, false_imp_iff, implies_true, true_and]
    cases commandEnd s (decode_wellFormed hi) with
    | result pal words v length ends =>
      exact ⟨_, ends, fun hr hl => absurd (length.bufLen_eq hr) hl, fun _ => .inl rfl, fun _ _ _ => rfl⟩
    | badLength reads length ends =>
      have hnot : ¬ LengthOk i s := fun h => length (h.bufLen_eq reads)
      exact ⟨_, ends, fun _ _ => rfl, fun h => absurd h hnot, fun h => absurd h hnot⟩
    | badEntry kind v entry position front user length maps ends =>
      obtain ⟨-, hkind⟩ := mapValue_eq_error_iff.1 maps
      refine ⟨_, ends, fun hr hl => absurd (length.bufLen_eq hr) hl, fun _ => .inr ?_,
        fun _ hlookup hsave => ?_⟩
      · rcases hkind with ⟨rfl, -⟩ | ⟨rfl, -⟩
        · exact .inl rfl
        · exact .inr rfl
      · rcases user with ⟨v, hv⟩ | ⟨inc, hinc⟩
        · exact absurd hv (hlookup v)
        · exact absurd hinc (hsave inc)
  · simp only [hperf, he, reduceCtorEq, false_imp_iff, implies_true, and_true]
    exact ⟨_, rfl, fun _ _ => rfl⟩

/-- Settles O45: a loaded entry is BAD as its expression is, and ERR_INFO0 names the entry. -/
theorem hostRecoversOffendingExpression : Obligations.HostRecoversOffendingExpression := by
  intro s exprs hloaded
  have hentry (k) : s.pal.get k = classify (resolve (exprs.get k)) :=
    (hloaded k).trans (entryOfWord_entryWord _)
  refine ⟨fun v err herr => ?_, fun v r g b hok hgt => ?_, fun inc t hl hexec herr => ?_,
    fun i hw hr hl => ⟨_, exec_badLength hw hr hl, recoverError_invalidFileSize ..⟩⟩
  · obtain ⟨rfl, -⟩ := (resolve_eq_error_iff _ _).1 herr
    have hst : (s.pal.get (palIndex v)).st = .badCode :=
      hentry _ ▸ (classify_st_badCode_iff _).2 herr
    exact ⟨rfl, _, exec_lookup_error (mapValue_badCode hst), recoverError_invalidColorCode ..⟩
  · have hst : (s.pal.get (palIndex v)).st = .badRange :=
      hentry _ ▸ (classify_st_badRange_iff _).2 ⟨r, g, b, hok, hgt⟩
    exact ⟨_, exec_lookup_error (mapValue_badRange hst), recoverError_componentRange ..⟩
  · rcases hd : decodeSlots s.pal s.saveBuffer inc (List.range Config.numSlots) 0 with ⟨words, f | n⟩
    · cases hexec.symm.trans (exec_decodeSave_error hl hd)
      obtain ⟨slot, hslot, hsel, p, hpos, hmap, -⟩ := decodeSlots_fail (congrArg Prod.snd hd)
      refine ⟨slot, List.mem_filter.2 ⟨hslot, hsel⟩, p, hpos, _, rfl, ?_⟩
      obtain ⟨hf, hkind⟩ := mapValue_eq_error_iff.1 hmap
      rw [hentry] at hkind
      rw [← hf] at hkind ⊢
      rcases hkind with ⟨hk, hst⟩ | ⟨hk, hst⟩ <;> rw [hk]
      · exact .inl ⟨(classify_st_badCode_iff _).1 hst, recoverError_invalidColorCode ..⟩
      · obtain ⟨r, g, b, hok, hgt⟩ := (classify_st_badRange_iff _).1 hst
        exact .inr ⟨r, g, b, hok, hgt, recoverError_componentRange ..⟩
    · cases hexec.symm.trans (exec_decodeSave_ok hl hd)
      cases herr

end Sys2Proof.Machine
end

section
/-! Proofs of the statements of 70_reset_and_hazards.md: a read behind a write, the accesses between a
command's issue and its perform step, the words that the host discards, and the reset input. -/

namespace Sys2Proof.Machine
open Sys2Proof

/-! ## A read behind a write -/

/-- The host's moves are in no register. -/
@[simp] theorem readReg_with_hostMoves (s : State) (moves : List HostMove) (r : Reg) :
    { s with hostMoves := moves }.readReg r = s.readReg r := by
  cases r <;> rfl

/-- A write and a read of one register return what the register holds after the write. -/
theorem run_write_read {s : State} {r : Reg} {v : Word} {rest : List HostMove}
    (hm : s.hostMoves = .write (regOffset r) v :: .read (regOffset r) :: rest) :
    Host.Core.run core 2 s = .next { s.writeRegister (regOffset r) v with
      readData := (s.writeRegister (regOffset r) v).readReg r, hostMoves := rest } := by
  have hlegal := offsetLegal_regOffset r
  have hread := step_of_read
    (s := { s.writeRegister (regOffset r) v with hostMoves := .read (regOffset r) :: rest }) rfl hlegal
  rw [readRegister_regOffset, readReg_with_hostMoves] at hread
  exact (run_succ_of_step core 1 (step_of_write hm hlegal)).trans (run_succ_of_step core 0 hread)

theorem readReg_writeRegister_cmd {s : State} (w : Word) (hb : s.status.busy = false) :
    (s.writeRegister (regOffset .cmd) w).readReg .cmd = w :=
  congrArg State.cmd (writeCmd_idle w hb)

theorem readReg_writeRegister_bufLen {s : State} (v : Word) (hb : s.status.busy = false) :
    (s.writeRegister (regOffset .bufLen) v).readReg .bufLen = v :=
  congrArg State.bufLen (writeBufLen_idle v hb)

/-- PAL reads back in its WARL form (10_state.md R35). -/
theorem readReg_writeRegister_pal {s : State} (k : Fin Config.palEntries) (v : Word)
    (hb : s.status.busy = false) :
    (s.writeRegister (regOffset (.pal k)) v).readReg (.pal k) = palWord (entryOfWord v) := by
  rw [writeRegister_pal, writePal_idle k v hb]
  exact congrArg palWord (palette_get_set_self s.pal k _)

/-! ## Accesses while a command is pending -/

/-- While BUSY a register write changes at most OVR. -/
theorem writeRegister_busy_ovr {s : State} (off : Nat) (v : Word) (hb : s.status.busy = true) :
    ∃ ovr, s.writeRegister off v = { s with status := { s.status with ovr := ovr } } := by
  rcases writeRegister_cases s off v with h | ⟨-, h⟩ | ⟨hidle, -⟩
  · exact ⟨s.status.ovr, h⟩
  · exact ⟨true, h⟩
  · simp [hb] at hidle

/-- `s` after register accesses made while BUSY, with the moves `rest` still to come. -/
def State.afterAccesses (s : State) (ovr : Bool) (data : Word) (rest : List HostMove) : State :=
  { s with status := { s.status with ovr := ovr }, readData := data, hostMoves := rest }

/-- While BUSY a register access changes at most OVR and what the host has read. -/
theorem step_access_busy {s : State} {move : HostMove} {rest : List HostMove}
    (hm : s.hostMoves = move :: rest) (ha : isAccess move) (hb : s.status.busy = true) :
    ∃ ovr data, step s = .next (s.afterAccesses ovr data rest) := by
  cases move with
  | write off v =>
    obtain ⟨ovr, hw⟩ := writeRegister_busy_ovr off v hb
    refine ⟨ovr, s.readData, ?_⟩
    rw [step_of_write hm ha, hw]; rfl
  | read off => exact ⟨s.status.ovr, s.readRegister off, step_of_read hm ha⟩
  | wait | storeByte | reset => exact ha.elim

/-- While BUSY any number of register accesses changes at most OVR and what the host has read
(20_memory.md R71). -/
theorem run_accesses_busy {s : State} {moves : List HostMove} (hm : s.hostMoves = moves)
    (ha : ∀ move ∈ moves, isAccess move) (hb : s.status.busy = true) :
    ∃ ovr data, Host.Core.run core moves.length s = .next (s.afterAccesses ovr data []) := by
  induction moves generalizing s with
  | nil =>
    have hs : s = s.afterAccesses s.status.ovr s.readData [] := hm ▸ rfl
    exact ⟨_, _, congrArg Host.Outcome.next hs⟩
  | cons move rest ih =>
    obtain ⟨hmove, hrest⟩ := List.forall_mem_cons.1 ha
    obtain ⟨ovr, data, hstep⟩ := step_access_busy hm hmove hb
    obtain ⟨ovr', data', hrun⟩ := ih (s := s.afterAccesses ovr data rest) rfl hrest hb
    exact ⟨ovr', data', (run_succ_of_step core rest.length hstep).trans hrun⟩

/-- A perform step leaves the block idle and DONE (10_state.md R32). -/
theorem perform_ends (w : Word) (s : State) :
    ∃ t, perform w s = .next t ∧ t.pending = none ∧ t.status.busy = false ∧ t.status.done = true := by
  rcases perform_cases w s with ⟨i, -, hperform⟩ | ⟨-, hperform⟩
  · obtain ⟨t, -, hexec, hbusy, hdone, -, hpending, -⟩ := everyCommandEndsWithItsFrame i s
    exact ⟨t, hperform.trans hexec, hpending, hbusy, hdone⟩
  · exact ⟨_, hperform, rfl, rfl, rfl⟩

/-! ## The words that the host keeps -/

theorem keptWords_nil : keptWords [] = [] := rfl

/-- A command's last word decides whether the host keeps its words (70_reset_and_hazards.md R242). -/
theorem keptWords_concat (front : List Word) (last : Word) :
    keptWords (front ++ [last]) = if isAbort last then [] else front ++ [last] := by
  simp [keptWords]

/-- A closing word is ABORT exactly when the command ended in an error (30_encoding.md R91, R92). -/
theorem isAbort_of_closing_tag {last : Word} {err : Bool}
    (h : last.extractLsb' 28 4 = if err then 0xF#4 else 0xE#4) : isAbort last = err := by
  rw [isAbort, h]
  cases err <;> rfl

/-- A command whose operands `decode` never gives ends as IllegalCommand with its word (log 9). -/
theorem exec_illFormed {i : Instr} (s : State) (h : i.wellFormed = false) :
    exec i s = .next (s.finish [] (.error .illegalCommand (encode i) 0#32)) := by
  cases i with
  | preset pid => exact exec_preset_illegal s (of_decide_eq_false h)
  | decodeSlot slot => exact exec_decodeSlot_illegal s (of_decide_eq_false h)
  | checkActive slot => exact exec_checkActive_illegal s (of_decide_eq_false h)
  | decodeSave | lookup | unpack => cases h

/-! ## The obligations -/

/-- Settles O17: the read returns what the idle register stored. -/
theorem readAfterWrite : Obligations.ReadAfterWrite := by
  intro s r v rest hb hm
  refine ⟨_, run_write_read hm, rfl, ?_, ?_⟩
  · rintro (rfl | rfl)
    · exact readReg_writeRegister_cmd v hb
    · exact readReg_writeRegister_bufLen v hb
  · rintro k rfl
    exact readReg_writeRegister_pal k v hb

/-- Settles O50: the accesses run out and leave the command pending on the same data, so the block's
turn is next. -/
theorem pendingCommandIsPerformed : Obligations.PendingCommandIsPerformed := by
  intro s w hinv hp ha
  have hb : s.status.busy = true := by rw [hinv.busy_pending, hp]; rfl
  obtain ⟨ovr, data, hrun⟩ := run_accesses_busy rfl ha hb
  have hstep : step (s.afterAccesses ovr data []) = perform w (s.afterAccesses ovr data []) :=
    step_of_blockNext (.inl rfl) hp
  obtain ⟨u, hu, hpending, hbusy, hdone⟩ := perform_ends w (s.afterAccesses ovr data [])
  exact ⟨_, u, hrun, hstep.trans hu, hstep, rfl, rfl, rfl, rfl, rfl, hpending, hbusy, hdone⟩

/-- Settles O59: an emitting command's last word is ABORT exactly on an error, and every other command
has no word. -/
theorem hostDiscardsAbortedWords : Obligations.HostDiscardsAbortedWords := by
  intro i s t words hexec hout
  cases hw : i.wellFormed with
  | true =>
    obtain ⟨t', words', hexec', hout', hquiet, hemits⟩ := onlyDecodeCommandsEmit i s hw
    cases hexec.symm.trans hexec'
    obtain rfl : words = words' := List.append_cancel_left (hout.symm.trans hout')
    cases hi : emits i with
    | false => rw [hquiet hi, keptWords_nil, ite_self]
    | true =>
      obtain ⟨front, last, rfl, htag, -⟩ := hemits hi
      rw [keptWords_concat, isAbort_of_closing_tag htag]
  | false =>
    cases hexec.symm.trans (exec_illFormed s hw)
    obtain rfl : [] = words := List.append_cancel_left hout
    rfl

/-- Settles O18: the step is `State.resetBlock`, and the default palette is preset 0 of the ROM. -/
theorem resetInputResetsBlock : Obligations.ResetInputResetsBlock := by
  intro s rest hm
  exact ⟨_, step_of_hostMove hm, rfl, rfl, rfl, rfl, rfl, rfl, defaultPalette_get s.presetRom, rfl, rfl,
    rfl, rfl⟩

end Sys2Proof.Machine
end

section
/-! Proofs of the remaining statements, about every step of the machine: which steps stop, the block's
invariant, a repeated DECODE_SAVE, the idle machine, and the operands that `decode` never gives. -/

namespace Sys2Proof.Machine
open Sys2Proof

/-! ## The end of a command -/

@[simp] theorem State.finish_out (s : State) (words : List Word) (e : CmdEnd) :
    (s.finish words e).out = s.out ++ words := by
  cases e <;> rfl

@[simp] theorem State.finish_bufLen (s : State) (words : List Word) (e : CmdEnd) :
    (s.finish words e).bufLen = s.bufLen := by
  cases e <;> rfl

@[simp] theorem State.finish_pal (s : State) (words : List Word) (e : CmdEnd) :
    (s.finish words e).pal = s.pal := by
  cases e <;> rfl

/-- Ending twice with the same words and outcome only appends the words again. -/
theorem State.finish_finish (s : State) (words : List Word) (e : CmdEnd) :
    (s.finish words e).finish words e =
      { s.finish words e with out := (s.finish words e).out ++ words } := by
  cases e <;> rfl

/-! ## The words that a command emits -/

/-- Every word is in one of the five formats (30_encoding.md R93). -/
def LegalWords (words : List Word) : Prop := ∀ w ∈ words, streamWordLegal w = true

@[simp] theorem legalWords_nil : LegalWords [] := List.forall_mem_nil _

@[simp] theorem legalWords_cons {w : Word} {words : List Word} :
    LegalWords (w :: words) ↔ streamWordLegal w = true ∧ LegalWords words := List.forall_mem_cons

@[simp] theorem legalWords_append {front words : List Word} :
    LegalWords (front ++ words) ↔ LegalWords front ∧ LegalWords words := List.forall_mem_append

theorem streamWordLegal_streamEncode (sw : StreamWord) : streamWordLegal (streamEncode sw) = true := by
  simp [streamWordLegal, streamWordsReadBack sw]

@[simp] theorem streamWordLegal_hdrWord (slot : BitVec 5) (n : BitVec 8) :
    streamWordLegal (hdrWord slot n) = true := streamWordLegal_streamEncode (.hdr slot n)

@[simp] theorem streamWordLegal_pixWord (c : Rgb) : streamWordLegal (pixWord c) = true :=
  streamWordLegal_streamEncode (.pix c)

@[simp] theorem streamWordLegal_pvWord (v : Pixel) : streamWordLegal (pvWord v) = true :=
  streamWordLegal_streamEncode (.pv v)

@[simp] theorem streamWordLegal_endWord (k : BitVec 8) : streamWordLegal (endWord k) = true :=
  streamWordLegal_streamEncode (.fin k)

@[simp] theorem streamWordLegal_abortWord (e : BitVec 4) : streamWordLegal (abortWord e) = true :=
  streamWordLegal_streamEncode (.abort e)

theorem slotWords_legal (m : Memory) (slot : BitVec 5) : LegalWords (slotWords m slot) := by
  have hpixels : LegalWords (rowMajor.map fun p => pvWord (pixel m slot.toNat p.1 p.2)) :=
    List.forall_mem_map.2 fun _ _ => streamWordLegal_pvWord _
  simp [slotWords, hpixels]

theorem mapPixels_legal (pal : Palette) (m : Memory) (slot : Nat) (ps : List (Nat × Nat)) :
    LegalWords (mapPixels pal m slot ps).1 := by
  induction ps with
  | nil => exact legalWords_nil
  | cons p rest ih =>
    rw [mapPixels]
    split
    · exact legalWords_cons.2 ⟨streamWordLegal_pixWord _, ih⟩
    · exact legalWords_nil

theorem decodeSlots_legal (pal : Palette) (m : Memory) (inc : Bool) (slots : List Nat) (n : Nat) :
    LegalWords (decodeSlots pal m inc slots n).1 := by
  induction slots generalizing n with
  | nil => simp [decodeSlots]
  | cons slot rest ih =>
    have himage := mapPixels_legal pal m slot rowMajor
    rw [decodeSlots]
    split
    · exact ih n
    · rcases hm : mapPixels pal m slot rowMajor with ⟨words, _ | failure⟩ <;> rw [hm] at himage
      · simp [himage, ih]
      · simp [himage]

/-- DECODE_SAVE's words are legal and its end is the same, in every state with the same palette, length
and save buffer (10_state.md R20). -/
theorem exec_decodeSave_end (inc : Bool) (s : State) :
    ∃ words e, LegalWords words ∧
      ∀ s' : State, s'.bufLen = s.bufLen → s'.pal = s.pal → s'.saveBuffer = s.saveBuffer →
        exec (.decodeSave inc) s' = .next (s'.finish words e) := by
  by_cases hl : s.bufLen = saveSizeWord
  · have hlegal := decodeSlots_legal s.pal s.saveBuffer inc (List.range Config.numSlots) 0
    rcases hd : decodeSlots s.pal s.saveBuffer inc (List.range Config.numSlots) 0 with ⟨words, f | n⟩ <;>
      rw [hd] at hlegal
    · exact ⟨_, _, by simpa using hlegal, fun s' hlen hpal hbuf =>
        exec_decodeSave_error (hlen.trans hl) (by rw [hpal, hbuf, hd])⟩
    · exact ⟨_, _, hlegal, fun s' hlen hpal hbuf =>
        exec_decodeSave_ok (hlen.trans hl) (by rw [hpal, hbuf, hd])⟩
  · exact ⟨_, _, by simp, fun s' hlen _ _ =>
      hlen ▸ exec_decodeSave_badLength inc (hlen ▸ hl)⟩

/-- Every command ends in `State.finish` with legal words. -/
theorem exec_legal (i : Instr) (s : State) :
    ∃ (pal : Palette) (words : List Word) (e : CmdEnd),
      exec i s = .next ({ s with pal := pal }.finish words e) ∧ LegalWords words := by
  cases hi : emits i with
  | false =>
    obtain ⟨pal, e, h⟩ := exec_quiet s hi
    exact ⟨pal, [], e, h, legalWords_nil⟩
  | true =>
    cases i with
    | decodeSlot slot =>
      by_cases hs : slotLegal slot
      · by_cases hl : s.bufLen = saveSizeWord
        · exact ⟨s.pal, _, _, exec_decodeSlot hs hl, slotWords_legal _ _⟩
        · exact ⟨s.pal, _, _, exec_decodeSlot_badLength hs hl, by simp⟩
      · exact ⟨s.pal, _, _, exec_decodeSlot_illegal s hs, legalWords_nil⟩
    | decodeSave inc =>
      obtain ⟨words, e, hlegal, h⟩ := exec_decodeSave_end inc s
      exact ⟨s.pal, words, e, h s rfl rfl rfl, hlegal⟩
    | preset | lookup | checkActive | unpack => cases hi

/-- A perform step ends in `State.finish` with legal words. -/
theorem perform_legal (w : Word) (s : State) :
    ∃ (pal : Palette) (words : List Word) (e : CmdEnd),
      perform w s = .next ({ s with pal := pal }.finish words e) ∧ LegalWords words := by
  rcases perform_cases w s with ⟨i, -, hi⟩ | ⟨-, hw⟩
  · obtain ⟨pal, words, e, h, hlegal⟩ := exec_legal i s
    exact ⟨pal, words, e, hi.trans h, hlegal⟩
  · exact ⟨s.pal, [], _, hw, legalWords_nil⟩

/-! ## What keeps the invariant -/

/-- The invariant speaks of STATUS without OVR, CMD, `pending`, the save buffer and OUT only. -/
theorem BlockInv.congr {s t : State} (h : BlockInv s)
    (hstatus : ∃ ovr, t.status = { s.status with ovr := ovr }) (hcmd : t.cmd = s.cmd)
    (hpending : t.pending = s.pending) (hbuffer : t.saveBuffer = s.saveBuffer) (hout : t.out = s.out) :
    BlockInv t := by
  obtain ⟨ovr, hstatus⟩ := hstatus
  constructor <;> simp only [hstatus, hcmd, hpending, hbuffer, hout]
  exacts [h.busy_pending, h.pending_cmd, h.busy_not_done, h.err_done, h.ok_code, h.code_range,
    h.buffer_wf, h.out_legal]

/-- A state as reset leaves it meets the invariant (70_reset_and_hazards.md R230). -/
theorem blockInv_of_clear {s : State} (hstatus : s.status = .clear) (hpending : s.pending = none)
    (hbuffer : s.saveBuffer.wf = true) (hout : s.out = []) : BlockInv s where
  busy_pending := by rw [hstatus, hpending]; rfl
  pending_cmd := by simp [hpending]
  busy_not_done := by simp [hstatus, Status.clear]
  err_done := by simp [hstatus, Status.clear]
  ok_code _ := by rw [hstatus]; rfl
  code_range := by simp [hstatus, Status.clear]
  buffer_wf := hbuffer
  out_legal := by simp [hout]

/-- ERRCODE of an error is 1 to 4 (60_exceptions.md R200). -/
theorem ErrorKind.code_range (kind : ErrorKind) : kind.code ≠ 0#4 ∧ kind.code.toNat ≤ 4 := by
  cases kind <;> decide

/-- The end of a command that emits legal words gives the invariant, whatever STATUS was before. -/
theorem blockInv_finish {s : State} {words : List Word} (e : CmdEnd) (hbuffer : s.saveBuffer.wf = true)
    (hout : LegalWords s.out) (hwords : LegalWords words) : BlockInv (s.finish words e) := by
  have hall : LegalWords (s.out ++ words) := legalWords_append.2 ⟨hout, hwords⟩
  cases e with
  | ok v => exact ⟨rfl, by simp, by simp, by simp, by simp, by simp, hbuffer, hall⟩
  | error kind i0 i1 =>
    obtain ⟨hne, hle⟩ := kind.code_range
    exact ⟨rfl, by simp, by simp, by simpa using hne, by simp, by simpa using hle, hbuffer, hall⟩

theorem BlockInv.after_perform {s t : State} {w : Word} (h : BlockInv s) (ht : perform w s = .next t) :
    BlockInv t := by
  obtain ⟨pal, words, e, hp, hwords⟩ := perform_legal w s
  cases ht.symm.trans hp
  exact blockInv_finish e h.buffer_wf h.out_legal hwords

/-- An issue makes BUSY and `pending` agree again (10_state.md R24). -/
theorem BlockInv.after_issue {s : State} (h : BlockInv s) (w : Word) : BlockInv (s.issue w) :=
  ⟨rfl, by simp, by simp, by simp, by simp, by simp, h.buffer_wf, h.out_legal⟩

theorem BlockInv.after_write {s : State} (h : BlockInv s) (off : Nat) (v : Word) :
    BlockInv (s.writeRegister off v) := by
  rcases writeRegister_cases s off v with hw | ⟨-, hw⟩ | ⟨-, hw | hw | ⟨k, hw⟩⟩ <;> rw [hw]
  · exact h
  · exact h.congr ⟨true, rfl⟩ rfl rfl rfl rfl
  · exact h.after_issue v
  · exact h.congr ⟨_, rfl⟩ rfl rfl rfl rfl
  · exact h.congr ⟨_, rfl⟩ rfl rfl rfl rfl

theorem BlockInv.after_store {s : State} (h : BlockInv s) {a : Nat} (b : Byte) (ha : a < Config.saveSize) :
    BlockInv { s with saveBuffer := s.saveBuffer.write a b } :=
  { h with buffer_wf := Memory.wf_write _ a b ha h.buffer_wf }

/-! ## WAIT, and which steps stop -/

/-- A poll reads STATUS, and takes WAIT off the list when BUSY reads 0 (30_encoding.md R87). -/
theorem State.poll_eq (s : State) (rest : List HostMove) :
    s.poll rest = { s with
      readData := s.status.word, hostMoves := if s.status.busy then s.hostMoves else rest } := by
  unfold State.poll
  split <;> rfl

theorem waitTurn_idle {s : State} (rest : List HostMove) (hp : s.pending = none) :
    waitTurn rest s = .next (s.poll rest) := by
  rw [waitTurn, hp]

theorem waitTurn_pending {s : State} {w : Word} (rest : List HostMove) (hp : s.pending = some w) :
    waitTurn rest s = perform w s := by
  rw [waitTurn, hp]

/-- The host's turn answers a next state exactly when its move keeps its contract (logs 10, 11, 12). -/
theorem hostTurn_next_iff (move : HostMove) (rest : List HostMove) (s : State) :
    (∃ t, hostTurn move rest s = .next t) ↔ moveLegal s move := by
  cases move with
  | write off v | read off =>
    exact ⟨fun ⟨_, h⟩ => (registerAccess_next h).1, fun h => ⟨_, registerAccess_legal h _⟩⟩
  | wait =>
    refine iff_of_true ?_ trivial
    rcases hp : s.pending with _ | w
    · exact ⟨_, waitTurn_idle rest hp⟩
    · obtain ⟨t, ht⟩ := perform_next w s
      exact ⟨t, (waitTurn_pending rest hp).trans ht⟩
  | storeByte a b =>
    constructor
    · rintro ⟨t, h⟩
      obtain ⟨ha, hb, -⟩ := storeByte_next h
      exact ⟨ha, hb⟩
    · rintro ⟨ha, hb⟩
      exact ⟨_, storeByte_legal b ha hb⟩
  | reset => exact iff_of_true ⟨_, rfl⟩ trivial

/-- The block's turn never stops. -/
theorem blockTurn_next (s : State) : ∃ t, blockTurn s = .next t := by
  unfold blockTurn
  split
  · exact perform_next _ s
  · exact ⟨s, rfl⟩

theorem step_of_noMove {s : State} (h : s.hostMoves = []) : step s = blockTurn s := by
  simp [step, advance, h]

/-! ## The obligations -/

/-- Settles O46: each way a step can lead on keeps the invariant; the words of a perform step are legal. -/
theorem stepKeepsBlockInv : Obligations.StepKeepsBlockInv := by
  intro s t h hstep
  cases step_effect hstep with
  | perform w _ _ hw => exact h.after_perform hw
  | idle _ _ ht => exact ht ▸ h
  | poll rest _ _ ht =>
    rw [ht, State.poll_eq]
    exact h.congr ⟨_, rfl⟩ rfl rfl rfl rfl
  | write off v rest _ _ ht =>
    subst ht
    exact (h.after_write off v).congr ⟨_, rfl⟩ rfl rfl rfl rfl
  | read off rest _ _ ht =>
    subst ht
    exact h.congr ⟨_, rfl⟩ rfl rfl rfl rfl
  | store a b rest _ ha _ ht =>
    subst ht
    exact (h.after_store b ha).congr ⟨_, rfl⟩ rfl rfl rfl rfl
  | reset rest _ ht =>
    subst ht
    exact blockInv_of_clear rfl rfl h.buffer_wf rfl

/-- Settles O10: the host's turn stops exactly on a breach, and the block's turn never does. -/
theorem stepStopsOnlyOnHostBreach : Obligations.StepStopsOnlyOnHostBreach := by
  intro s
  rcases hm : s.hostMoves with _ | ⟨move, rest⟩
  · rw [step_of_noMove hm]
    exact iff_of_true (blockTurn_next s) nofun
  · rw [step_of_hostMove hm, hostTurn_next_iff]
    constructor
    · rintro h _ _ ⟨⟩
      exact h
    · exact fun h => h move rest rfl

/-- Settles O38: the end changes neither the palette, nor the length, nor the buffer, so the second run
ends as the first. -/
theorem decodeSaveIsRepeatable : Obligations.DecodeSaveIsRepeatable := by
  intro s inc
  obtain ⟨words, e, -, hend⟩ := exec_decodeSave_end inc s
  exact ⟨_, _, words, hend s rfl rfl rfl, hend (s.finish words e) (by simp) (by simp) (by simp),
    s.finish_out words e, State.finish_out _ words e, s.finish_finish words e⟩

/-- Settles O9: the block's turn and the poll with nothing pending. -/
theorem idleAndWait : Obligations.IdleAndWait := by
  refine ⟨fun s hm hp => ?_, fun s rest hm hp => ?_⟩
  · rw [step_of_noMove hm, blockTurn, hp]
  · rw [step_of_hostMove hm, hostTurn, waitTurn_idle rest hp, State.poll_eq]

/-- Settles O33: an ill-formed command ends as IllegalCommand, with no word. -/
theorem outOfRangeOperandsAreIllegal : Obligations.OutOfRangeOperandsAreIllegal := by
  intro s i h
  rw [exec_illFormed s h, State.finish_quiet_error]
  rfl

/-- Settles O47: nothing is pending, OUT is empty, and STATUS is clear. -/
theorem resetMeetsBlockInv : Obligations.ResetMeetsBlockInv :=
  blockInv_of_clear rfl rfl State.reset_saveBuffer_wf rfl

end Sys2Proof.Machine
end
